-- ==== Sys2Proof/Word.lean ====
section
/-! DEFINITION. The word types of the machine (00_scope.md R5, R7; 30_encoding.md R81). Every value is an unsigned
integer of a fixed width; there is no signed quantity. -/

namespace Sys2Proof

/-- An 8-bit value: a register V0..VF, DT, ST, SP, a memory byte (R5 `REGW`). -/
abbrev Byte := BitVec 8

/-- A 16-bit value: I, PC, a stack entry, an opcode, an effective address (R5 `ADRW`, `ILEN`). -/
abbrev Word16 := BitVec 16

/-- A 4-bit field: a register index, the row count n, a key number (R81). -/
abbrev Nibble := BitVec 4

/-- A register index 0..15; all 16 are legal (30_encoding.md R83). -/
abbrev RegIdx := BitVec 4

/-- The 12-bit address field nnn (R81). -/
abbrev Addr12 := BitVec 12

/-- Register 15, VF: a general register and the only flag (10_state.md R22). -/
abbrev VF : RegIdx := 0xF#4

end Sys2Proof
end

