-- ==== Sys2Proof/Config.lean ====
section
/-! DEFINITION. What the spec leaves as a parameter or a free input (00_scope.md R6; 93_implementation_defined.md).
The types of the parameters and the free value stand here; the parameters' default VALUES stand in
Sys2Proof/Machine/Params.lean. -/

namespace Sys2Proof

/-- FONT (00_scope.md R6, D10): the 80 bytes of memory 0x000..0x04F at reset, an argument of RESET. Log 2. -/
abbrev Font := Vector Byte 80

/-- KEY_INDEX_POLICY (46_keypad.md R202, D15): what Ex9E and ExA1 do with a key number above 15. -/
inductive KeyIndexPolicy where
  /-- the key counts as not held, and KeyIndexRange is recorded -/
  | notHeld
  /-- the low nibble selects the key -/
  | lowNibble
  deriving DecidableEq, Repr

/-- VF_WRITE_ORDER (93_implementation_defined.md U5, D7): which write of 8xy4..8xy7, 8xyE lands last. -/
inductive VfWriteOrder where
  | flagLast
  | resultLast
  deriving DecidableEq, Repr

/-- The random source of Cxkk (44_random.md R181, D18): the byte of the k-th draw, under no law. It has no body: a
claim that mentions it holds for every value of every draw (log 18). That two runs share this one sequence is the model's
choice (log 36). -/
opaque Config.randByte : Nat → Byte

end Sys2Proof
end

