-- ==== Sys2Proof/Machine/Event.lean ====
section
/-! DEFINITION. The events through which the outside world acts on the core (10_state.md R36 to R40). -/

namespace Sys2Proof.Machine

/-- One byte presented on the load port: `load_addr[11:0]`, `load_data[7:0]` (10_state.md R42). -/
structure LoadByte where
  addr : Addr12
  data : Byte
  deriving DecidableEq, Repr

/-- One atomic event (10_state.md R35). Key numbers are host arguments, so they are plain numbers here: a number above
15 is outside the contract and refused (R38, log 23). The `rand` argument of STEP is the free value (R36, log 18). -/
inductive Event where
  /-- STEP: one instruction (R36) -/
  | step
  /-- TICK: the timers count down (R37) -/
  | tick
  /-- SET_HELD(k, b) (R38) -/
  | setHeld (k : Nat) (b : Bool)
  /-- NOTIFY_PRESSED(k) (R39) -/
  | notifyPressed (k : Nat)
  /-- RESET(ROM) (R40), with the parameter FONT (00_scope.md R6) and the bytes the load port stores, in order, while the
  reset input is asserted (R42); none for a RESET(ROM) of the source -/
  | reset (font : Font) (rom : List Byte) (loads : List LoadByte)
  deriving DecidableEq, Repr

end Sys2Proof.Machine
end

