-- ==== Sys2Proof/Syntax.lean ====
section
/-! DEFINITION. The instructions: one constructor per row of spec/opcode_table.json (30_encoding.md R84), its fields
the fields of the row. The widths of the fields are in their types, so every term is a legal instruction (R83).
The mnemonics are the spec's labels, its decision D20 (log 20). -/

namespace Sys2Proof

/-- The 34 instructions of 30_encoding.md R84, in the table's order. -/
inductive Instr where
  /-- 00E0 CLS (R185) -/
  | cls
  /-- 00EE RET (R122) -/
  | ret
  /-- 1nnn JP nnn (R120) -/
  | jp (nnn : Addr12)
  /-- 2nnn CALL nnn (R121) -/
  | call (nnn : Addr12)
  /-- 3xkk SE Vx, kk (R124) -/
  | seImm (x : RegIdx) (kk : Byte)
  /-- 4xkk SNE Vx, kk (R125) -/
  | sneImm (x : RegIdx) (kk : Byte)
  /-- 5xy0 SE Vx, Vy (R126) -/
  | seReg (x y : RegIdx)
  /-- 6xkk LD Vx, kk (R140) -/
  | ldImm (x : RegIdx) (kk : Byte)
  /-- 7xkk ADD Vx, kk (R141) -/
  | addImm (x : RegIdx) (kk : Byte)
  /-- 8xy0 LD Vx, Vy (R142) -/
  | ldReg (x y : RegIdx)
  /-- 8xy1 OR Vx, Vy (R143) -/
  | orReg (x y : RegIdx)
  /-- 8xy2 AND Vx, Vy (R144) -/
  | andReg (x y : RegIdx)
  /-- 8xy3 XOR Vx, Vy (R145) -/
  | xorReg (x y : RegIdx)
  /-- 8xy4 ADD Vx, Vy (R146) -/
  | addReg (x y : RegIdx)
  /-- 8xy5 SUB Vx, Vy (R147) -/
  | subReg (x y : RegIdx)
  /-- 8xy6 SHR Vx; y is encoded and ignored (R148) -/
  | shr (x y : RegIdx)
  /-- 8xy7 SUBN Vx, Vy; the destination is Vy (R149) -/
  | subn (x y : RegIdx)
  /-- 8xyE SHL Vx; y is encoded and ignored (R150) -/
  | shl (x y : RegIdx)
  /-- 9xy0 SNE Vx, Vy (R127) -/
  | sneReg (x y : RegIdx)
  /-- Annn LD I, nnn (R160) -/
  | ldI (nnn : Addr12)
  /-- Bnnn JP V0, nnn (R123) -/
  | jpV0 (nnn : Addr12)
  /-- Cxkk RND Vx, kk (R180) -/
  | rnd (x : RegIdx) (kk : Byte)
  /-- Dxyn DRW Vx, Vy, n (R186) -/
  | drw (x y : RegIdx) (n : Nibble)
  /-- Ex9E SKP Vx (R200) -/
  | skp (x : RegIdx)
  /-- ExA1 SKNP Vx (R201) -/
  | sknp (x : RegIdx)
  /-- Fx07 LD Vx, DT (R215) -/
  | ldVxDt (x : RegIdx)
  /-- Fx0A LD Vx, K (R203) -/
  | ldVxK (x : RegIdx)
  /-- Fx15 LD DT, Vx (R216) -/
  | ldDtVx (x : RegIdx)
  /-- Fx18 LD ST, Vx (R217) -/
  | ldStVx (x : RegIdx)
  /-- Fx1E ADD I, Vx (R161) -/
  | addI (x : RegIdx)
  /-- Fx29 LD F, Vx (R162) -/
  | ldF (x : RegIdx)
  /-- Fx33 LD B, Vx (R164) -/
  | ldB (x : RegIdx)
  /-- Fx55 LD [I], Vx (R165) -/
  | storeRegs (x : RegIdx)
  /-- Fx65 LD Vx, [I] (R166) -/
  | loadRegs (x : RegIdx)
  deriving DecidableEq, Repr

end Sys2Proof
end

