-- ==== Sys2Proof/WellFormed.lean ====
section
/-! DEFINITION. What is well formed: an opcode word (it matches a row of 30_encoding.md R84), an instruction (its
operands are within the widths of R81), a host event (its key number is within the contract of 10_state.md R38, R39). -/

namespace Sys2Proof

/-- A row of the opcode map: `op16` is the row's instruction iff `op16 & mask = pat` (30_encoding.md R84). -/
structure OpcodeRow where
  mask : Word16
  pat  : Word16
  deriving DecidableEq, Repr

/-- Whether a word matches the row (R84). -/
def OpcodeRow.hits (r : OpcodeRow) (w : Word16) : Bool := w &&& r.mask == r.pat

/-- The row of an instruction: the mask and match columns of 30_encoding.md R84. -/
def Instr.row : Instr → OpcodeRow
  | .cls         => ⟨0xFFFF, 0x00E0⟩
  | .ret         => ⟨0xFFFF, 0x00EE⟩
  | .jp _        => ⟨0xF000, 0x1000⟩
  | .call _      => ⟨0xF000, 0x2000⟩
  | .seImm _ _   => ⟨0xF000, 0x3000⟩
  | .sneImm _ _  => ⟨0xF000, 0x4000⟩
  | .seReg _ _   => ⟨0xF00F, 0x5000⟩
  | .ldImm _ _   => ⟨0xF000, 0x6000⟩
  | .addImm _ _  => ⟨0xF000, 0x7000⟩
  | .ldReg _ _   => ⟨0xF00F, 0x8000⟩
  | .orReg _ _   => ⟨0xF00F, 0x8001⟩
  | .andReg _ _  => ⟨0xF00F, 0x8002⟩
  | .xorReg _ _  => ⟨0xF00F, 0x8003⟩
  | .addReg _ _  => ⟨0xF00F, 0x8004⟩
  | .subReg _ _  => ⟨0xF00F, 0x8005⟩
  | .shr _ _     => ⟨0xF00F, 0x8006⟩
  | .subn _ _    => ⟨0xF00F, 0x8007⟩
  | .shl _ _     => ⟨0xF00F, 0x800E⟩
  | .sneReg _ _  => ⟨0xF00F, 0x9000⟩
  | .ldI _       => ⟨0xF000, 0xA000⟩
  | .jpV0 _      => ⟨0xF000, 0xB000⟩
  | .rnd _ _     => ⟨0xF000, 0xC000⟩
  | .drw _ _ _   => ⟨0xF000, 0xD000⟩
  | .skp _       => ⟨0xF0FF, 0xE09E⟩
  | .sknp _      => ⟨0xF0FF, 0xE0A1⟩
  | .ldVxDt _    => ⟨0xF0FF, 0xF007⟩
  | .ldVxK _     => ⟨0xF0FF, 0xF00A⟩
  | .ldDtVx _    => ⟨0xF0FF, 0xF015⟩
  | .ldStVx _    => ⟨0xF0FF, 0xF018⟩
  | .addI _      => ⟨0xF0FF, 0xF01E⟩
  | .ldF _       => ⟨0xF0FF, 0xF029⟩
  | .ldB _       => ⟨0xF0FF, 0xF033⟩
  | .storeRegs _ => ⟨0xF0FF, 0xF055⟩
  | .loadRegs _  => ⟨0xF0FF, 0xF065⟩

/-- The rows with mask 0xFFFF, the format Z (30_encoding.md R82, R84). -/
def opcodeRowsZ : List OpcodeRow := [⟨0xFFFF, 0x00E0⟩, ⟨0xFFFF, 0x00EE⟩]

/-- The rows with mask 0xF000: the formats A and K, and Dxyn (R82, R84). -/
def opcodeRowsAK : List OpcodeRow :=
  [0x1000, 0x2000, 0x3000, 0x4000, 0x6000, 0x7000, 0xA000, 0xB000, 0xC000, 0xD000].map (⟨0xF000, ·⟩)

/-- The rows with mask 0xF00F: the format R with a selector in n (R82, R84). -/
def opcodeRowsR : List OpcodeRow :=
  [0x5000, 0x8000, 0x8001, 0x8002, 0x8003, 0x8004, 0x8005, 0x8006, 0x8007, 0x800E, 0x9000].map (⟨0xF00F, ·⟩)

/-- The rows with mask 0xF0FF: the format X with a selector in kk (R82, R84). -/
def opcodeRowsX : List OpcodeRow :=
  [0xE09E, 0xE0A1, 0xF007, 0xF00A, 0xF015, 0xF018, 0xF01E, 0xF029, 0xF033, 0xF055, 0xF065].map (⟨0xF0FF, ·⟩)

/-- The 34 rows of 30_encoding.md R84, format by format. -/
def opcodeRows : List OpcodeRow := opcodeRowsZ ++ opcodeRowsAK ++ opcodeRowsR ++ opcodeRowsX

/-- A word is an instruction iff it matches a row; any other word is an unrecognised opcode (R84, R86). -/
def wellFormedWord (w : Word16) : Bool := opcodeRows.any (·.hits w)

/-- The bounds of 30_encoding.md R81 on an instruction's fields. The types already hold each field to its width, so
every instruction meets them (R83: "all 16 values are legal register numbers"). -/
def Instr.wellFormed : Instr → Bool
  | .cls | .ret => true
  | .jp nnn | .call nnn | .ldI nnn | .jpV0 nnn => nnn.toNat < 4096
  | .seImm x kk | .sneImm x kk | .ldImm x kk | .addImm x kk | .rnd x kk => x.toNat < 16 && kk.toNat < 256
  | .seReg x y | .ldReg x y | .orReg x y | .andReg x y | .xorReg x y | .addReg x y | .subReg x y
  | .shr x y | .subn x y | .shl x y | .sneReg x y => x.toNat < 16 && y.toNat < 16
  | .drw x y n => x.toNat < 16 && y.toNat < 16 && n.toNat < 16
  | .skp x | .sknp x | .ldVxDt x | .ldVxK x | .ldDtVx x | .ldStVx x | .addI x | .ldF x | .ldB x
  | .storeRegs x | .loadRegs x => x.toNat < 16

/-- The host's contract on an event: a key number is 0..15 (10_state.md R38, R39). -/
def Machine.Event.wellFormed : Machine.Event → Bool
  | .step | .tick | .reset _ _ _ => true
  | .setHeld k _ => k < 16
  | .notifyPressed k => k < 16

end Sys2Proof
end

