-- ==== Sys2Proof/Decode.lean ====
section
/-! DEFINITION. The decoder and the encoder (30_encoding.md R80 to R88). The decoder is the two-level dispatch of R85,
first on the family nibble `op`, then on `n` or `kk`; every digit written in a pattern is checked (R87, D11, log 11). -/

namespace Sys2Proof

/-- Why bytes are no instruction. -/
inductive DecodeError where
  /-- fewer than two bytes are left (R80: every instruction is exactly 2 bytes long) -/
  | truncated
  /-- the word matches none of the 34 patterns (R86); a step executes it as UNDEF (40_step_and_dispatch.md R106) -/
  | unrecognised (op16 : Word16)
  deriving DecidableEq, Repr

/-! ### Fields (R81) -/

/-- The 4-bit digit of an opcode whose least significant bit is bit `lo`. -/
def digit (w : Word16) (lo : Nat) : Nibble := w.extractLsb' lo 4

/-- `op`, bits 15:12. -/
def fieldOp (w : Word16) : Nibble := digit w 12
/-- `x`, bits 11:8. -/
def fieldX (w : Word16) : RegIdx := digit w 8
/-- `y`, bits 7:4. -/
def fieldY (w : Word16) : RegIdx := digit w 4
/-- `n`, bits 3:0. -/
def fieldN (w : Word16) : Nibble := digit w 0
/-- `kk`, bits 7:0. -/
def fieldKK (w : Word16) : Byte := w.extractLsb' 0 8
/-- `nnn`, bits 11:0. -/
def fieldNNN (w : Word16) : Addr12 := w.extractLsb' 0 12

/-! ### Decoding -/

/-- Family 0 (R85): the whole low 12 bits select; every other 0nnn is unrecognised (R88). -/
def decode0 (w : Word16) : Option Instr :=
  if fieldNNN w = 0x0E0 then some .cls
  else if fieldNNN w = 0x0EE then some .ret
  else none

/-- Family 8 (R85): `n` selects. -/
def decode8 (w : Word16) : Option Instr :=
  let x := fieldX w
  let y := fieldY w
  if fieldN w = 0x0 then some (.ldReg x y)
  else if fieldN w = 0x1 then some (.orReg x y)
  else if fieldN w = 0x2 then some (.andReg x y)
  else if fieldN w = 0x3 then some (.xorReg x y)
  else if fieldN w = 0x4 then some (.addReg x y)
  else if fieldN w = 0x5 then some (.subReg x y)
  else if fieldN w = 0x6 then some (.shr x y)
  else if fieldN w = 0x7 then some (.subn x y)
  else if fieldN w = 0xE then some (.shl x y)
  else none

/-- Family E (R85): `kk` selects. -/
def decodeE (w : Word16) : Option Instr :=
  if fieldKK w = 0x9E then some (.skp (fieldX w))
  else if fieldKK w = 0xA1 then some (.sknp (fieldX w))
  else none

/-- Family F (R85): `kk` selects. -/
def decodeF (w : Word16) : Option Instr :=
  let x := fieldX w
  if fieldKK w = 0x07 then some (.ldVxDt x)
  else if fieldKK w = 0x0A then some (.ldVxK x)
  else if fieldKK w = 0x15 then some (.ldDtVx x)
  else if fieldKK w = 0x18 then some (.ldStVx x)
  else if fieldKK w = 0x1E then some (.addI x)
  else if fieldKK w = 0x29 then some (.ldF x)
  else if fieldKK w = 0x33 then some (.ldB x)
  else if fieldKK w = 0x55 then some (.storeRegs x)
  else if fieldKK w = 0x65 then some (.loadRegs x)
  else none

/-- The instruction of an opcode, or none when it is unrecognised (R84, R85). -/
def decodeOpcode (w : Word16) : Option Instr :=
  let x := fieldX w
  let y := fieldY w
  if fieldOp w = 0x0 then decode0 w
  else if fieldOp w = 0x1 then some (.jp (fieldNNN w))
  else if fieldOp w = 0x2 then some (.call (fieldNNN w))
  else if fieldOp w = 0x3 then some (.seImm x (fieldKK w))
  else if fieldOp w = 0x4 then some (.sneImm x (fieldKK w))
  else if fieldOp w = 0x5 then if fieldN w = 0 then some (.seReg x y) else none
  else if fieldOp w = 0x6 then some (.ldImm x (fieldKK w))
  else if fieldOp w = 0x7 then some (.addImm x (fieldKK w))
  else if fieldOp w = 0x8 then decode8 w
  else if fieldOp w = 0x9 then if fieldN w = 0 then some (.sneReg x y) else none
  else if fieldOp w = 0xA then some (.ldI (fieldNNN w))
  else if fieldOp w = 0xB then some (.jpV0 (fieldNNN w))
  else if fieldOp w = 0xC then some (.rnd x (fieldKK w))
  else if fieldOp w = 0xD then some (.drw x y (fieldN w))
  else if fieldOp w = 0xE then decodeE w
  else decodeF w

/-- The opcode of two fetched bytes: the byte at the lower address is the high-order byte (20_memory.md R54). -/
def opcodeOfBytes (hi lo : Byte) : Word16 := hi ++ lo

/-- Decode the first instruction of a byte string: the instruction and the bytes after it, or the reason there is none. -/
def decode : List Byte → Except DecodeError (Instr × List Byte)
  | hi :: lo :: rest =>
    match decodeOpcode (opcodeOfBytes hi lo) with
    | some i => .ok (i, rest)
    | none => .error (.unrecognised (opcodeOfBytes hi lo))
  | _ => .error .truncated

/-! ### Encoding -/

/-- An opcode from its four hexadecimal digits, most significant first (R81). -/
def opcodeOfDigits (op x y n : Nibble) : Word16 := op ++ (x ++ (y ++ n))

/-- Format A: `op[4] nnn[12]` (R82). -/
def formatA (op : Nibble) (nnn : Addr12) : Word16 := op ++ nnn

/-- Formats K and X: `op[4] x[4] kk[8]` (R82). -/
def formatK (op : Nibble) (x : RegIdx) (kk : Byte) : Word16 := op ++ (x ++ kk)

/-- The opcode of an instruction (30_encoding.md R84). -/
def encode : Instr → Word16
  | .cls         => formatA 0x0 0x0E0
  | .ret         => formatA 0x0 0x0EE
  | .jp nnn      => formatA 0x1 nnn
  | .call nnn    => formatA 0x2 nnn
  | .seImm x kk  => formatK 0x3 x kk
  | .sneImm x kk => formatK 0x4 x kk
  | .seReg x y   => opcodeOfDigits 0x5 x y 0x0
  | .ldImm x kk  => formatK 0x6 x kk
  | .addImm x kk => formatK 0x7 x kk
  | .ldReg x y   => opcodeOfDigits 0x8 x y 0x0
  | .orReg x y   => opcodeOfDigits 0x8 x y 0x1
  | .andReg x y  => opcodeOfDigits 0x8 x y 0x2
  | .xorReg x y  => opcodeOfDigits 0x8 x y 0x3
  | .addReg x y  => opcodeOfDigits 0x8 x y 0x4
  | .subReg x y  => opcodeOfDigits 0x8 x y 0x5
  | .shr x y     => opcodeOfDigits 0x8 x y 0x6
  | .subn x y    => opcodeOfDigits 0x8 x y 0x7
  | .shl x y     => opcodeOfDigits 0x8 x y 0xE
  | .sneReg x y  => opcodeOfDigits 0x9 x y 0x0
  | .ldI nnn     => formatA 0xA nnn
  | .jpV0 nnn    => formatA 0xB nnn
  | .rnd x kk    => formatK 0xC x kk
  | .drw x y n   => opcodeOfDigits 0xD x y n
  | .skp x       => formatK 0xE x 0x9E
  | .sknp x      => formatK 0xE x 0xA1
  | .ldVxDt x    => formatK 0xF x 0x07
  | .ldVxK x     => formatK 0xF x 0x0A
  | .ldDtVx x    => formatK 0xF x 0x15
  | .ldStVx x    => formatK 0xF x 0x18
  | .addI x      => formatK 0xF x 0x1E
  | .ldF x       => formatK 0xF x 0x29
  | .ldB x       => formatK 0xF x 0x33
  | .storeRegs x => formatK 0xF x 0x55
  | .loadRegs x  => formatK 0xF x 0x65

/-- The high-order byte of an opcode, stored at the lower address (R54, R80). -/
def opcodeHi (w : Word16) : Byte := w.extractLsb' 8 8
/-- The low-order byte of an opcode, stored at the higher address. -/
def opcodeLo (w : Word16) : Byte := w.extractLsb' 0 8

/-- The bytes of an instruction in memory order (R80: two bytes, big-endian). -/
def encodeBytes (i : Instr) : List Byte := [opcodeHi (encode i), opcodeLo (encode i)]

/-! ### The host's numbering -/

/-- The opcode of a table word: the low `nbits` bits of `w`, every bit above them 0. -/
def tableOpcode (nbits w : Nat) : Word16 := BitVec.ofNat 16 (w % 2 ^ nbits)

/-- The instruction the decoder reads from a table word, laid out in memory order. -/
def decodeTableWord (nbits w : Nat) : Option Instr :=
  match decode [opcodeHi (tableOpcode nbits w), opcodeLo (tableOpcode nbits w)] with
  | .ok (i, _) => some i
  | .error _ => none

end Sys2Proof
end

