-- ==== Sys2Proof/Machine/Params.lean ====
section
/-! DEFINITION. The default values of the spec's parameters (00_scope.md R6; 93_implementation_defined.md). -/

namespace Sys2Proof

/-- FONT for the digits 0..7 (70_reset_and_hazards.md R263, D10; PRESUMED, log 2). -/
def Config.fontLow : List Byte :=
  [0xF0, 0x90, 0x90, 0x90, 0xF0] ++ [0x20, 0x60, 0x20, 0x20, 0x70] ++
  [0xF0, 0x10, 0xF0, 0x80, 0xF0] ++ [0xF0, 0x10, 0xF0, 0x10, 0xF0] ++
  [0x90, 0x90, 0xF0, 0x10, 0x10] ++ [0xF0, 0x80, 0xF0, 0x10, 0xF0] ++
  [0xF0, 0x80, 0xF0, 0x90, 0xF0] ++ [0xF0, 0x10, 0x20, 0x40, 0x40]

/-- FONT for the digits 8..F (R263, D10; PRESUMED, log 2). -/
def Config.fontHigh : List Byte :=
  [0xF0, 0x90, 0xF0, 0x90, 0xF0] ++ [0xF0, 0x90, 0xF0, 0x10, 0xF0] ++
  [0xF0, 0x90, 0xF0, 0x90, 0x90] ++ [0xE0, 0x90, 0xE0, 0x90, 0xE0] ++
  [0xF0, 0x80, 0x80, 0x80, 0xF0] ++ [0xE0, 0x90, 0x90, 0x90, 0xE0] ++
  [0xF0, 0x80, 0xF0, 0x80, 0xF0] ++ [0xF0, 0x80, 0xF0, 0x80, 0x80]

/-- The default of the parameter FONT, which RESET takes as an argument (00_scope.md R6; 70_reset_and_hazards.md R263;
log 2). -/
def Config.font : Font := ⟨(Config.fontLow ++ Config.fontHigh).toArray, rfl⟩

/-- KEY_INDEX_POLICY, default `not_held` (46_keypad.md R202, D15; log 15). -/
def Config.keyIndexPolicy : KeyIndexPolicy := .notHeld

/-- VF_WRITE_ORDER, default `flag_last` (40_step_and_dispatch.md R105, U5, D7; log 8). -/
def Config.vfWriteOrder : VfWriteOrder := .flagLast

/-- SPRITE_MSB_LEFT, default true (45_display.md R187, U8, D9; PRESUMED, log 10). -/
def Config.spriteMsbLeft : Bool := true

/-- DIAG_UNKNOWN_EN, default 0 (60_exceptions.md R233, D19; log 19): it governs what is reported, never the state. -/
def Config.diagUnknownEn : Bool := false

end Sys2Proof
end

