-- ==== Sys2Proof/Machine/State.lean ====
section
/-! DEFINITION. The state of the machine (10_state.md R20 to R32), the model's own records beside it, the reasons a step
can stop, and the state right after reset (R44). -/

namespace Sys2Proof.Machine

/-- The diagnostic conditions of 60_exceptions.md R231. -/
inductive DiagKind where
  /-- code 1: the opcode matches no row -/
  | unknownOpcode
  /-- code 2: CALL with 16 entries on the stack -/
  | stackOverflow
  /-- code 3: RET with an empty stack -/
  | stackUnderflow
  /-- code 4: never raised (20_memory.md R51, 90_conflicts.md C2, log 30) -/
  | addressBounds
  /-- code 5: a key number above 15 -/
  | keyIndexRange
  deriving DecidableEq, Repr

/-- A diagnostic event: condition, opcode being executed, address it was fetched from (R231). -/
structure Diag where
  kind : DiagKind
  op16 : Word16
  pc   : Word16
  deriving DecidableEq, Repr

/-- The framebuffer: 32 rows (index y) of 64 pixels (index x) (10_state.md R30). -/
abbrev Framebuffer := Vector (Vector Bool 64) 32

/-- Main memory as a list of cells: addresses strictly rising, no cell equal to what an unlisted address reads as. -/
abbrev Memory := List Host.Cell

/-- CpuState (10_state.md R20) and, after it, the model's own records (R33: no state of the hardware). -/
structure State where
  /-- V0..VF (R21, R22) -/
  v      : Vector Byte 16
  /-- I (R23) -/
  i      : Word16
  /-- PC (R24) -/
  pc     : Word16
  /-- SP, the number of occupied stack entries (R25) -/
  sp     : Byte
  /-- S[0..15] (R26) -/
  stack  : Vector Word16 16
  /-- DT (R27) -/
  dt     : Byte
  /-- ST (R28) -/
  st     : Byte
  /-- MEM (R29) -/
  mem    : Memory
  /-- FB (R30) -/
  fb     : Framebuffer
  /-- KEY[0..15] (R31) -/
  key    : Vector Bool 16
  /-- SLOT, `none` for NONE (R32) -/
  slot   : Option Nibble
  /-- the model's record of diagnostics, newest first (60_exceptions.md R234; log 19) -/
  diags  : List Diag
  /-- the model's count of random draws: the next draw is `Config.randByte draws` (44_random.md R181; log 18,
  36) -/
  draws  : Nat
  /-- the host events still to come, the next one first; empty means STEP (R35, R272 of
  70_reset_and_hazards.md; log 22) -/
  agenda : List Event
  deriving DecidableEq, Repr

/-- Why a step faults. The hardware never faults (60_exceptions.md R230); this one stops in states no run reaches. -/
inductive Fault where
  /-- CALL with SP above 16, or RET with SP above 16: the call stack has no such entry and 10_state.md R25 says the
  value is unreachable. Raised by `execCall` and `execRet`. Safe (log 7). -/
  | stackIndexOutOfRange
  deriving DecidableEq, Repr

/-- Why a step is refused. -/
inductive Refusal where
  /-- an instruction that has no meaning yet; raised by arms of `exec` only, and none is left. Safe. -/
  | notModelled (mnemonic : String)
  /-- SET_HELD or NOTIFY_PRESSED with a key number above 15: outside the host's contract, "the model refuses it"
  (10_state.md R38). Raised by `applyEvent`. Safe (log 23). -/
  | hostKeyOutOfRange
  deriving DecidableEq, Repr

/-- The outcome of an instruction or an event. -/
abbrev Result := Host.Outcome State Fault Refusal

/-- The machine right after RESET with the default FONT and the empty ROM (10_state.md R44; log 1, 2, 3). Memory lists nothing: the font
and the zeros are what unlisted addresses read as. -/
def State.reset : State where
  v := Vector.replicate 16 0
  i := 0
  pc := 0x0200
  sp := 0
  stack := Vector.replicate 16 0
  dt := 0
  st := 0
  mem := []
  fb := Vector.replicate 32 (Vector.replicate 64 false)
  key := Vector.replicate 16 false
  slot := none
  diags := []
  draws := 0
  agenda := []

end Sys2Proof.Machine
end

