-- ==== Sys2Proof/Machine/Memory.lean ====
section
/-! DEFINITION. Main memory: 4096 bytes (20_memory.md R50 to R53), held as a list of cells in one canonical form. -/

namespace Sys2Proof.Machine

/-- What an address that no cell lists reads as: the reset contents (10_state.md R44) for the default FONT, which stands at
0x000..0x04F (70_reset_and_hazards.md R263; log 2); 0x00 elsewhere (D3, log 3). Another FONT is listed byte by byte where
it differs (`State.resetWith`). -/
def Memory.unlisted (a : Nat) : Byte := Config.font.toList.getD a 0

/-- The byte at an address. -/
def Memory.read : Memory → Nat → Byte
  | [], a => Memory.unlisted a
  | c :: m, a => if c.1 = a then c.2 else Memory.read m a

/-- Put a cell before the first cell with a higher address. -/
def Memory.insert (a : Nat) (b : Byte) : Memory → Memory
  | [] => [(a, b)]
  | c :: m => if a < c.1 then (a, b) :: c :: m else c :: Memory.insert a b m

/-- Remove every cell of an address. -/
def Memory.erase (a : Nat) : Memory → Memory
  | [] => []
  | c :: m => if c.1 = a then Memory.erase a m else c :: Memory.erase a m

/-- Store a byte. Writing what an unlisted address reads as removes the cell, so equal memories are equal lists. -/
def Memory.write (m : Memory) (a : Nat) (b : Byte) : Memory :=
  if b = Memory.unlisted a then Memory.erase a m else Memory.insert a b (Memory.erase a m)

/-- The canonical form: addresses strictly rising and below 4096, no cell equal to what the address reads as unlisted. -/
abbrev Memory.wf (m : Memory) : Prop :=
  m.Pairwise (fun c d => c.1 < d.1) ∧ ∀ c ∈ m, c.1 < 4096 ∧ c.2 ≠ Memory.unlisted c.1

end Sys2Proof.Machine
end

