-- ==== Sys2Proof/Machine/Ops.lean ====
section
/-! DEFINITION. The named operations over registers, memory, the stack, the framebuffer, the keys and the program
counter. Meanings reach the state through these only.

TAKING AN EXCEPTION: this hardware raises no exception, trap or fault, has no trap entry and no return from one
(60_exceptions.md R230, R237, R238). What stands in its place is ONE shared operation, `State.diagnose`. -/

namespace Sys2Proof.Machine

/-! ### Registers -/

/-- `V[r]` (00_scope.md R8). -/
def State.getV (s : State) (r : RegIdx) : Byte := s.v[r.toNat]'r.isLt

/-- `V[r] <- b` (R8, 10_state.md R21). -/
def State.setV (s : State) (r : RegIdx) (b : Byte) : State := { s with v := s.v.set r.toNat b r.isLt }

/-- Write a list of bytes into a register file, one register each, from register `k` on. -/
def loadRegFile (v : Vector Byte 16) (k : Nat) : List Byte → Vector Byte 16
  | [] => v
  | b :: bs => loadRegFile (v.setIfInBounds k b) (k + 1) bs

/-- Load registers V0, V1, ... from a list of bytes, one each, in order; the registers after them keep their values
(43_index_memory.md R166). -/
def State.loadV (s : State) (bs : List Byte) : State := { s with v := loadRegFile s.v 0 bs }

/-- The bytes of V0..Vx, inclusive (43_index_memory.md R165). -/
def State.regsUpTo (s : State) (x : RegIdx) : List Byte := s.v.toList.take (x.toNat + 1)

/-- `I <- a`. -/
def State.setI (s : State) (a : Word16) : State := { s with i := a }

/-- `DT <- b`. -/
def State.setDt (s : State) (b : Byte) : State := { s with dt := b }

/-- `ST <- b`. -/
def State.setSt (s : State) (b : Byte) : State := { s with st := b }

/-! ### Main memory -/

/-- The memory cell of a 16-bit effective address: `ea mod 4096` (20_memory.md R51). -/
def cellOf (ea : Word16) : Nat := ea.toNat % 4096

/-- `MemRead(ea, 1)` (20_memory.md R52). -/
def State.memRead (s : State) (ea : Word16) : Byte := Memory.read s.mem (cellOf ea)

/-- `MemWrite(ea, 1, b)` (20_memory.md R53). -/
def State.memWrite (s : State) (ea : Word16) (b : Byte) : State := { s with mem := Memory.write s.mem (cellOf ea) b }

/-- Store bytes at `ea`, `ea + 1`, ... (16-bit wrap), in ascending order (20_memory.md R51, R55, R57). -/
def State.memWriteBytes (s : State) (ea : Word16) : List Byte → State
  | [] => s
  | b :: bs => (s.memWrite ea b).memWriteBytes (ea + 1) bs

/-- The byte at offset `k` from `ea`, with the 16-bit wrap of 20_memory.md R51. -/
def State.memReadAt (s : State) (ea : Word16) (k : Nat) : Byte := s.memRead (ea + BitVec.ofNat 16 k)

/-- Read `n` bytes at `ea`, `ea + 1`, ... (R51, R55, R57). -/
def State.memReadBytes (s : State) (ea : Word16) (n : Nat) : List Byte := (List.range n).map (s.memReadAt ea)

/-- The instruction fetch `MemRead(PC, 2)`: two bytes, big-endian, each address reduced modulo 4096 (20_memory.md R54,
D4, log 4). -/
def State.fetch (s : State) : Word16 := opcodeOfBytes (s.memRead s.pc) (s.memRead (s.pc + 1))

/-- Store an opcode where the fetch finds it: high byte at PC, low byte at PC + 1 (R54). -/
def State.placeOpcode (s : State) (w : Word16) : State := s.memWriteBytes s.pc [opcodeHi w, opcodeLo w]

/-! ### Program counter (40_step_and_dispatch.md R103) -/

/-- `pc <- t`. -/
def State.jumpTo (s : State) (t : Word16) : State := { s with pc := t }

/-- The uniform advance, `pc <- (pc + 2) mod 65536`. -/
def State.advance (s : State) : State := s.jumpTo (s.pc + 2)

/-- A skip: `pc + 4` when the condition holds, else `pc + 2` (41_flow.md R128). -/
def State.skipIf (s : State) (cond : Bool) : State := s.jumpTo (if cond then s.pc + 4 else s.pc + 2)

/-! ### Diagnostics, in place of exceptions -/

/-- `diag kind(op16, pc)`: record the condition, the opcode being executed and its address; nothing else changes
(60_exceptions.md R231, R237; log 19). -/
def State.diagnose (s : State) (kind : DiagKind) (op16 : Word16) : State :=
  { s with diags := ⟨kind, op16, s.pc⟩ :: s.diags }

/-! ### Call stack (41_flow.md R121, R122; log 5) -/

/-- `S[SP] <- a; SP <- SP + 1`, for an SP that names an entry. -/
def State.push (s : State) (a : Word16) (h : s.sp.toNat < 16) : State :=
  { s with stack := s.stack.set s.sp.toNat a h, sp := s.sp + 1 }

/-- `SP <- SP - 1`; the entry keeps its value (10_state.md R26). -/
def State.drop (s : State) : State := { s with sp := s.sp - 1 }

/-! ### Key-wait slot -/

/-- `SLOT <- k` (10_state.md R39). -/
def State.setSlot (s : State) (k : Nibble) : State := { s with slot := some k }

/-- `SLOT <- NONE` (46_keypad.md R203; 40_step_and_dispatch.md R104). -/
def State.clearSlot (s : State) : State := { s with slot := none }

/-- The end of a step: step 5 of 40_step_and_dispatch.md R100, `SLOT <- NONE` (R104, D21, log 21). -/
def endStep : Result → Result
  | .next s => .next s.clearSlot
  | .fault f => .fault f
  | .refused r => .refused r

/-! ### Key vector -/

/-- `KEY[k]`, for a key number 0..15 (10_state.md R31). -/
def State.getKey (s : State) (k : Nibble) : Bool := s.key[k.toNat]'k.isLt

/-- `KEY[k] <- b` (10_state.md R38). -/
def State.setKey (s : State) (k : Nibble) (b : Bool) : State := { s with key := s.key.set k.toNat b k.isLt }

/-! ### Framebuffer (10_state.md R30) -/

/-- The column of a coordinate: modulo 64 (45_display.md R188). -/
def colOf (px : Nat) : Fin 64 := ⟨px % 64, Nat.mod_lt _ (by decide)⟩

/-- The row of a coordinate: modulo 32 (45_display.md R188). -/
def rowOf (py : Nat) : Fin 32 := ⟨py % 32, Nat.mod_lt _ (by decide)⟩

/-- `FB[y][x]`. -/
def Framebuffer.get (fb : Framebuffer) (x : Fin 64) (y : Fin 32) : Bool := fb[y.val][x.val]

/-- `FB[y][x] <- FB[y][x] ^ 1`. -/
def Framebuffer.flip (fb : Framebuffer) (x : Fin 64) (y : Fin 32) : Framebuffer :=
  fb.set y.val (fb[y.val].set x.val (!Framebuffer.get fb x y) x.isLt) y.isLt

/-- The blank framebuffer (45_display.md R185). -/
def Framebuffer.blank : Framebuffer := Vector.replicate 32 (Vector.replicate 64 false)

/-- Replace the framebuffer. -/
def State.setFb (s : State) (fb : Framebuffer) : State := { s with fb := fb }

/-- `FB[y][x]` of a state. -/
def State.pixel (s : State) (x : Fin 64) (y : Fin 32) : Bool := Framebuffer.get s.fb x y

/-! ### Random source (44_random.md R181) -/

/-- The value of the next draw: a free byte (log 18). DESIGN CHOICE: the byte depends on the number of draws so far and on
nothing else, so two runs whose states hold the same `draws` draw the same bytes; the spec says to assume no determinism
across runs (91_not_in_source.md N23; log 36). -/
def State.nextRand (s : State) : Byte := Config.randByte s.draws

/-- Consume one draw. -/
def State.consumeRand (s : State) : State := { s with draws := s.draws + 1 }

/-! ### Host events to come (log 22) -/

/-- Replace the agenda of host events. -/
def State.setAgenda (s : State) (es : List Event) : State := { s with agenda := es }

end Sys2Proof.Machine
end

