-- ==== Sys2Proof/Machine/Operands.lean ====
section
/-! DEFINITION. The operand forms of the instruction set (30_encoding.md R83; 43_index_memory.md R167): a register Vx or
Vy (`State.getV`), the immediates kk and nnn, memory at I plus an offset, a key number in Vx, a sprite bit. -/

namespace Sys2Proof.Machine

/-- `nnn` zero-extended to 16 bits (R83). -/
def zextAddr (nnn : Addr12) : Word16 := nnn.setWidth 16

/-- An 8-bit value zero-extended to 16 bits (00_scope.md R8 `zext_16`). -/
def zextByte (b : Byte) : Word16 := b.setWidth 16

/-- A key number zero-extended to 8 bits (46_keypad.md R206). -/
def zextKey (k : Nibble) : Byte := k.setWidth 8

/-- Whether a register's value is out of the range of key numbers (46_keypad.md R202). -/
def keyOutOfRange (b : Byte) : Bool := 15 < b.toNat

/-- Whether the key numbered by a register's value is held (46_keypad.md R200 to R202). Above 15 the policy decides:
`notHeld` gives false, `lowNibble` the key of the low nibble (D15, log 15). -/
def State.keyHeld (s : State) (policy : KeyIndexPolicy) (b : Byte) : Bool :=
  if keyOutOfRange b then
    match policy with
    | .notHeld => false
    | .lowNibble => s.getKey (b.setWidth 4)
  else s.getKey (b.setWidth 4)

/-- The effect of reading a key number: KeyIndexRange is recorded when it is above 15 and the policy is `notHeld`
(46_keypad.md R202; 60_exceptions.md R231). -/
def State.checkKeyIndex (s : State) (policy : KeyIndexPolicy) (b : Byte) (op16 : Word16) : State :=
  if keyOutOfRange b && policy == .notHeld then s.diagnose .keyIndexRange op16 else s

/-- The sprite bit of column `col` (0..7): bit `7 - col` when the most significant bit is leftmost
(45_display.md R187, D9, log 10). -/
def spriteBit (msbLeft : Bool) (b : Byte) (col : Nat) : Bool :=
  if msbLeft then b.getLsbD (7 - col) else b.getLsbD col

/-- The three decimal digits of a byte, most significant first (43_index_memory.md R164, D16, log 16). -/
def bcdDigits (b : Byte) : List Byte :=
  [BitVec.ofNat 8 (b.toNat / 100), BitVec.ofNat 8 (b.toNat / 10 % 10), BitVec.ofNat 8 (b.toNat % 10)]

/-- The address of glyph `b` of the font: `b * 5`, the whole byte (43_index_memory.md R162, D17, log 17). -/
def fontAddr (b : Byte) : Word16 := BitVec.ofNat 16 (b.toNat * 5)

end Sys2Proof.Machine
end

