-- ==== Sys2Proof/Machine/Flags.lean ====
section
/-! DEFINITION. The flag computations: VF is the only flag (10_state.md R22), written with 0 or 1 by 8xy4, 8xy5, 8xy6,
8xy7, 8xyE and Dxyn, last (40_step_and_dispatch.md R105, D7, log 8). -/

namespace Sys2Proof.Machine

/-- A flag as the value 0 or 1 of VF (R22). -/
def flagByte (c : Bool) : Byte := if c then 1 else 0

/-- Carry of 8xy4: the exact sum is above 255 (42_load_alu.md R146). -/
def carryFlag (a b : Byte) : Bool := 255 < a.toNat + b.toNat

/-- Flag of 8xy5 and 8xy7: the minuend is strictly greater; 0 at equality (R147, R149, 90_conflicts.md C5, log 26). -/
def greaterFlag (a b : Byte) : Bool := b.toNat < a.toNat

/-- Flag of 8xy6: the bit shifted out, bit 0 (R148). -/
def lowBitFlag (a : Byte) : Bool := a.getLsbD 0

/-- Flag of 8xyE: the bit shifted out, bit 7 (R150). -/
def highBitFlag (a : Byte) : Bool := a.getLsbD 7

/-- `VF <- flag`. -/
def State.setFlag (s : State) (c : Bool) : State := s.setV VF (flagByte c)

/-- Write a result register and the flag in the order of the parameter: by default the result first and VF last, so that
VF holds the flag even when the result register is VF (40_step_and_dispatch.md R105). -/
def State.setResultFlag (s : State) (order : VfWriteOrder) (r : RegIdx) (res : Byte) (c : Bool) : State :=
  match order with
  | .flagLast => (s.setV r res).setFlag c
  | .resultLast => (s.setFlag c).setV r res

end Sys2Proof.Machine
end

