-- ==== Sys2Proof/Machine/Alu.lean ====
section
/-! DEFINITION. Register loads and the ALU (42_load_alu.md R140 to R151). `a` and `b` are Vx and Vy, read before any
write (40_step_and_dispatch.md R105). -/

namespace Sys2Proof.Machine

/-- LD Vx, kk, 6xkk (R140). -/
def execLdImm (x : RegIdx) (kk : Byte) (s : State) : Result := .next (s.setV x kk).advance

/-- ADD Vx, kk, 7xkk: wraps, no flag (R141). -/
def execAddImm (x : RegIdx) (kk : Byte) (s : State) : Result := .next (s.setV x (s.getV x + kk)).advance

/-- LD Vx, Vy, 8xy0 (R142). -/
def execLdReg (x y : RegIdx) (s : State) : Result := .next (s.setV x (s.getV y)).advance

/-- OR Vx, Vy, 8xy1; VF unchanged (R143, D13, log 13). -/
def execOrReg (x y : RegIdx) (s : State) : Result := .next (s.setV x (s.getV x ||| s.getV y)).advance

/-- AND Vx, Vy, 8xy2; VF unchanged (R144, D13, log 13). -/
def execAndReg (x y : RegIdx) (s : State) : Result := .next (s.setV x (s.getV x &&& s.getV y)).advance

/-- XOR Vx, Vy, 8xy3; VF unchanged (R145, D13, log 13). -/
def execXorReg (x y : RegIdx) (s : State) : Result := .next (s.setV x (s.getV x ^^^ s.getV y)).advance

/-- ADD Vx, Vy, 8xy4 (R146). -/
def execAddReg (x y : RegIdx) (s : State) : Result :=
  let a := s.getV x
  let b := s.getV y
  .next (s.setResultFlag Config.vfWriteOrder x (a + b) (carryFlag a b)).advance

/-- SUB Vx, Vy, 8xy5 (R147). -/
def execSubReg (x y : RegIdx) (s : State) : Result :=
  let a := s.getV x
  let b := s.getV y
  .next (s.setResultFlag Config.vfWriteOrder x (a - b) (greaterFlag a b)).advance

/-- SHR Vx, 8xy6; Vy plays no part (R148, D12, log 12). -/
def execShr (x _y : RegIdx) (s : State) : Result :=
  let a := s.getV x
  .next (s.setResultFlag Config.vfWriteOrder x (a >>> 1) (lowBitFlag a)).advance

/-- SUBN Vx, Vy, 8xy7: the destination is Vy, Vx is not written (R149, U9, log 26). -/
def execSubn (x y : RegIdx) (s : State) : Result :=
  let a := s.getV x
  let b := s.getV y
  .next (s.setResultFlag Config.vfWriteOrder y (b - a) (greaterFlag b a)).advance

/-- SHL Vx, 8xyE; Vy plays no part (R150, D12, log 12). -/
def execShl (x _y : RegIdx) (s : State) : Result :=
  let a := s.getV x
  .next (s.setResultFlag Config.vfWriteOrder x (a <<< 1) (highBitFlag a)).advance

end Sys2Proof.Machine
end

