-- ==== Sys2Proof/Machine/Display.lean ====
section
/-! DEFINITION. The display instructions: clear and sprite draw (45_display.md R185 to R192). -/

namespace Sys2Proof.Machine

/-- The draw unit between two pixels: the framebuffer so far and whether a pixel has gone from 1 to 0 (R186). -/
structure DrawAcc where
  fb  : Framebuffer
  hit : Bool
  deriving DecidableEq, Repr

/-- One pixel of a sprite: a 0 bit leaves it alone; a 1 bit flips it, and a lit pixel counts as a collision (R186). -/
def drawPixel (d : DrawAcc) (px py : Nat) (bit : Bool) : DrawAcc :=
  if bit then ⟨Framebuffer.flip d.fb (colOf px) (rowOf py), d.hit || Framebuffer.get d.fb (colOf px) (rowOf py)⟩
  else d

/-- The first `cols` columns of a sprite row, left to right (R186, R187). -/
def drawRow (d : DrawAcc) (vx py : Nat) (b : Byte) (cols : Nat) : DrawAcc :=
  (List.range cols).foldl (fun d col => drawPixel d (vx + col) py (spriteBit Config.spriteMsbLeft b col)) d

/-- A sprite, row after row, eight columns each, from its top left corner (R186). -/
def drawRows (d : DrawAcc) (vx vy : Nat) : List Byte → DrawAcc
  | [] => d
  | b :: bs => drawRows (drawRow d vx vy b 8) vx (vy + 1) bs

/-- CLS, 00E0 (R185). -/
def execCls (s : State) : Result := .next (s.setFb Framebuffer.blank).advance

/-- DRW Vx, Vy, n, Dxyn: coordinates are read before VF is written (R186, R189, D8, log 9). -/
def execDrw (x y : RegIdx) (n : Nibble) (s : State) : Result :=
  let d := drawRows ⟨s.fb, false⟩ (s.getV x).toNat (s.getV y).toNat (s.memReadBytes s.i n.toNat)
  .next ((s.setFb d.fb).setFlag d.hit).advance

end Sys2Proof.Machine
end

