-- ==== Sys2Proof/Machine/Flow.lean ====
section
/-! DEFINITION. Control transfer (41_flow.md R120 to R129). `s.pc` is the address of the instruction being executed
(10_state.md R24). -/

namespace Sys2Proof.Machine

/-- JP nnn, 1nnn (R120). -/
def execJp (nnn : Addr12) (s : State) : Result := .next (s.jumpTo (zextAddr nnn))

/-- CALL nnn, 2nnn (R121). The pushed value is the address of the CALL itself. SP = 16 is StackOverflow, and execution
falls through (D6, log 6). An SP above 16 names no entry and is unreachable (R25): a fault (log 7). -/
def execCall (nnn : Addr12) (s : State) : Result :=
  if s.sp = 16 then .next (s.diagnose .stackOverflow (encode (.call nnn))).advance
  else if h : s.sp.toNat < 16 then .next ((s.push s.pc h).jumpTo (zextAddr nnn))
  else .fault .stackIndexOutOfRange

/-- RET, 00EE (R122). The popped value is the address of a CALL, to which the uniform advance adds 2. SP = 0 is
StackUnderflow, and execution falls through (D6, log 6). An SP above 16 is unreachable: a fault (log 7). -/
def execRet (s : State) : Result :=
  if s.sp = 0 then .next (s.diagnose .stackUnderflow (encode .ret)).advance
  else if h : (s.sp - 1).toNat < 16 then .next (s.drop.jumpTo (s.stack[(s.sp - 1).toNat] + 2))
  else .fault .stackIndexOutOfRange

/-- JP V0, nnn, Bnnn (R123). -/
def execJpV0 (nnn : Addr12) (s : State) : Result := .next (s.jumpTo (zextAddr nnn + zextByte (s.getV 0)))

/-- SE Vx, kk, 3xkk (R124, D27, log 25). -/
def execSeImm (x : RegIdx) (kk : Byte) (s : State) : Result := .next (s.skipIf (s.getV x == kk))

/-- SNE Vx, kk, 4xkk (R125, D27, log 25). -/
def execSneImm (x : RegIdx) (kk : Byte) (s : State) : Result := .next (s.skipIf (s.getV x != kk))

/-- SE Vx, Vy, 5xy0 (R126, D27, log 25). -/
def execSeReg (x y : RegIdx) (s : State) : Result := .next (s.skipIf (s.getV x == s.getV y))

/-- SNE Vx, Vy, 9xy0 (R127, D27, log 25). -/
def execSneReg (x y : RegIdx) (s : State) : Result := .next (s.skipIf (s.getV x != s.getV y))

end Sys2Proof.Machine
end

