-- ==== Sys2Proof/Machine/Index.lean ====
section
/-! DEFINITION. The index register and memory instructions (43_index_memory.md R160 to R167). -/

namespace Sys2Proof.Machine

/-- LD I, nnn, Annn (R160). -/
def execLdI (nnn : Addr12) (s : State) : Result := .next (s.setI (zextAddr nnn)).advance

/-- ADD I, Vx, Fx1E: 16-bit wrap, no flag (R161, D13, log 13). -/
def execAddI (x : RegIdx) (s : State) : Result := .next (s.setI (s.i + zextByte (s.getV x))).advance

/-- LD F, Vx, Fx29 (R162). -/
def execLdF (x : RegIdx) (s : State) : Result := .next (s.setI (fontAddr (s.getV x))).advance

/-- LD B, Vx, Fx33: the three digits at I, I + 1, I + 2 (R164). -/
def execLdB (x : RegIdx) (s : State) : Result := .next (s.memWriteBytes s.i (bcdDigits (s.getV x))).advance

/-- LD [I], Vx, Fx55: V0..Vx at I, I + 1, ...; I unchanged (R165, D14, log 14). -/
def execStoreRegs (x : RegIdx) (s : State) : Result := .next (s.memWriteBytes s.i (s.regsUpTo x)).advance

/-- LD Vx, [I], Fx65: V0..Vx from I, I + 1, ...; I unchanged (R166, D14, log 14). -/
def execLoadRegs (x : RegIdx) (s : State) : Result := .next (s.loadV (s.memReadBytes s.i (x.toNat + 1))).advance

end Sys2Proof.Machine
end

