-- ==== Sys2Proof/Machine/Keypad.lean ====
section
/-! DEFINITION. The keypad instructions (46_keypad.md R200 to R206). -/

namespace Sys2Proof.Machine

/-- SKP Vx, Ex9E (R200, D27, log 25). -/
def execSkp (x : RegIdx) (s : State) : Result :=
  let k := s.getV x
  .next ((s.checkKeyIndex Config.keyIndexPolicy k (encode (.skp x))).skipIf (s.keyHeld Config.keyIndexPolicy k))

/-- SKNP Vx, ExA1 (R201, D27, log 25). -/
def execSknp (x : RegIdx) (s : State) : Result :=
  let k := s.getV x
  .next ((s.checkKeyIndex Config.keyIndexPolicy k (encode (.sknp x))).skipIf (!s.keyHeld Config.keyIndexPolicy k))

/-- LD Vx, K, Fx0A: with no key in the slot the net PC is unchanged and the instruction runs again at the next step;
with a key it is delivered and the slot consumed (R203, R204, R206). -/
def execLdVxK (x : RegIdx) (s : State) : Result :=
  match s.slot with
  | none => .next (s.jumpTo s.pc)
  | some k => .next (s.setV x (zextKey k)).clearSlot.advance

end Sys2Proof.Machine
end

