-- ==== Sys2Proof/Machine/Random.lean ====
section
/-! DEFINITION. The random number instruction (44_random.md R180, R181). -/

namespace Sys2Proof.Machine

/-- RND Vx, kk, Cxkk: one fresh free byte, ANDed with kk (R180, D18, log 18). -/
def execRnd (x : RegIdx) (kk : Byte) (s : State) : Result :=
  .next (s.consumeRand.setV x (s.nextRand &&& kk)).advance

end Sys2Proof.Machine
end

