-- ==== Sys2Proof/Machine/Timers.lean ====
section
/-! DEFINITION. The timer instructions (47_timers.md R215 to R217, D27, log 25) and the tick (R219). -/

namespace Sys2Proof.Machine

/-- LD Vx, DT, Fx07 (R215). -/
def execLdVxDt (x : RegIdx) (s : State) : Result := .next (s.setV x s.dt).advance

/-- LD DT, Vx, Fx15 (R216). -/
def execLdDtVx (x : RegIdx) (s : State) : Result := .next (s.setDt (s.getV x)).advance

/-- LD ST, Vx, Fx18 (R217). -/
def execLdStVx (x : RegIdx) (s : State) : Result := .next (s.setSt (s.getV x)).advance

/-- A counter after a tick: one less if it is not 0 (R219). -/
def countDown (b : Byte) : Byte := if b = 0 then 0 else b - 1

/-- The event TICK (R219). -/
def State.tick (s : State) : State := (s.setDt (countDown s.dt)).setSt (countDown s.st)

end Sys2Proof.Machine
end

