-- ==== Sys2Proof/Machine/Inputs.lean ====
section
/-! DEFINITION. The host's input events and reset (10_state.md R38 to R40; 70_reset_and_hazards.md R260 to R265). -/

namespace Sys2Proof.Machine

/-- SET_HELD(k, b): `KEY[k] <- b`, nothing else; a key number above 15 is refused (10_state.md R38, D1, log 23). -/
def applySetHeld (k : Nat) (b : Bool) (s : State) : Result :=
  if k < 16 then .next (s.setKey (BitVec.ofNat 4 k) b) else .refused .hostKeyOutOfRange

/-- NOTIFY_PRESSED(k): `SLOT <- k`, nothing else, the last one winning; a key number above 15 is refused
(10_state.md R39, D21, D1, log 21, 23). -/
def applyNotifyPressed (k : Nat) (s : State) : Result :=
  if k < 16 then .next (s.setSlot (BitVec.ofNat 4 k)) else .refused .hostKeyOutOfRange

/-- The part of a ROM image that is kept: its first 3584 bytes (70_reset_and_hazards.md R262, D23, log 24). -/
def romKept (rom : List Byte) : List Byte := rom.take 3584

/-- The load port: `MEM[load_addr] <- load_data` for each byte presented, in order (10_state.md R42; log 29). -/
def State.loadBytes (s : State) : List LoadByte → State
  | [] => s
  | l :: ls => (s.memWrite (l.addr.setWidth 16) l.data).loadBytes ls

/-- RESET(ROM), the construction of the CpuState (R260): everything cleared, FONT at 0x000 (R263), the ROM at 0x200
(R262), PC = 0x0200 (R264). -/
def State.resetWith (font : Font) (rom : List Byte) : State :=
  (State.reset.memWriteBytes 0 font.toList).memWriteBytes 0x200 (romKept rom)

/-- The event RESET(ROM) in a run: the state is constructed anew and no diagnostic survives (R265); the bytes of the load
port come last (10_state.md R42). The events the host has still to issue and the place in the random source are inputs,
not state, and go on (log 28). -/
def applyReset (font : Font) (rom : List Byte) (loads : List LoadByte) (s : State) : State :=
  { (State.resetWith font rom).loadBytes loads with draws := s.draws, agenda := s.agenda }

end Sys2Proof.Machine
end

