-- ==== Sys2Proof/Machine/Undef.lean ====
section
/-! DEFINITION. UNDEF, the unrecognised opcode (40_step_and_dispatch.md R106; 30_encoding.md R86, R88). It is no row of
the opcode table, so it has no constructor; the step runs it when the decoder finds no instruction. -/

namespace Sys2Proof.Machine

/-- UNDEF: UnknownOpcode is recorded and PC advances; nothing else changes (R106, log 31). -/
def execUndef (op16 : Word16) (s : State) : Result := .next (s.diagnose .unknownOpcode op16).advance

end Sys2Proof.Machine
end

