-- ==== Sys2Proof/Machine/Cycle.lean ====
section
/-! DEFINITION. The event STEP (40_step_and_dispatch.md R100) and the application of one host event
(10_state.md R35 to R40). -/

namespace Sys2Proof.Machine

/-- Steps 3 and 4 of R100 for the opcode that was fetched: the instruction it decodes to, or UNDEF. -/
def execOpcode (op16 : Word16) (s : State) : Result :=
  match decodeOpcode op16 with
  | some i => exec i s
  | none => execUndef op16 s

/-- The event STEP: fetch, decode, execute, advance, clear the slot (R100, R101, R104). -/
def stepEvent (s : State) : Result := endStep (execOpcode s.fetch s)

/-- The effect of one host event (10_state.md R36 to R40). -/
def applyEvent (e : Event) (s : State) : Result :=
  match e with
  | .step => stepEvent s
  | .tick => .next s.tick
  | .setHeld k b => applySetHeld k b s
  | .notifyPressed k => applyNotifyPressed k s
  | .reset font rom loads => .next (applyReset font rom loads s)

/-- Apply the next event of the agenda, which it uses up; with an empty agenda the event is STEP (log 22). -/
def applyNextEvent (s : State) : Result :=
  match s.agenda with
  | [] => stepEvent s
  | e :: rest => applyEvent e (s.setAgenda rest)

end Sys2Proof.Machine
end

