-- ==== Sys2Proof/Machine/Ports.lean ====
section
/-! DEFINITION. The read-only outputs (10_state.md R41, R42; 45_display.md R192; 60_exceptions.md R233, R244) and the
order of events presented in one clock cycle (10_state.md R43). Reading an output never changes state. Log 29, 35. -/

namespace Sys2Proof.Machine

/-- The render port `fb_pixel`: FB[y][x] (10_state.md R42; 45_display.md R192). -/
def State.fbPixel (s : State) (x : BitVec 6) (y : BitVec 5) : Bool := s.pixel x.toFin y.toFin

/-- The output `dt` (10_state.md R41, D22). -/
def State.dtOut (s : State) : Byte := s.dt

/-- The output `st`, for an audio collaborator (10_state.md R41; 47_timers.md R221). -/
def State.stOut (s : State) : Byte := s.st

/-- The items of the per-cycle state log: "opcode, I, PC, all V registers, stack contents" (60_exceptions.md R244), and
SP of the `dbg_*` view (10_state.md R42). -/
structure DebugView where
  opcode : Word16
  i      : Word16
  pc     : Word16
  v      : List Byte
  sp     : Byte
  stack  : List Word16
  deriving DecidableEq, Repr

/-- The debug view between two events (D24): the opcode is the one the next step will fetch. -/
def State.debugView (s : State) : DebugView := ⟨s.fetch, s.i, s.pc, s.v.toList, s.sp, s.stack.toList⟩

/-- The numeric code of a diagnostic condition (60_exceptions.md R231). -/
def DiagKind.code : DiagKind → Nat
  | .unknownOpcode  => 1
  | .stackOverflow  => 2
  | .stackUnderflow => 3
  | .addressBounds  => 4
  | .keyIndexRange  => 5

/-- The diagnostic channel: what has been reported, oldest first. One enable governs all codes and no state
(60_exceptions.md R233, D19, log 19). -/
def State.diagChannel (s : State) (enabled : Bool) : List Diag := if enabled then s.diags.reverse else []

/-- The outputs `diag_code`, `diag_opcode`, `diag_pc` (10_state.md R42). -/
structure DiagOut where
  code   : BitVec 3
  opcode : Word16
  pc     : Word16
  deriving DecidableEq, Repr

/-- A diagnostic as the port shows it. -/
def Diag.out (d : Diag) : DiagOut := ⟨BitVec.ofNat 3 d.kind.code, d.op16, d.pc⟩

/-- The diagnostic port over an event, or over a clock cycle, between two states: the diagnostic raised in it, `none` for
`diag_valid` = 0 (10_state.md R42; at most one a step, 60_exceptions.md R236). The enable is that of `diagChannel`. -/
def State.diagPort (enabled : Bool) (before after : State) : Option DiagOut :=
  if enabled then (after.diags.take (after.diags.length - before.diags.length)).head?.map Diag.out else none

/-- The inputs of one clock cycle (10_state.md R42): `rst`, the load port (`none` for `load_valid` = 0), a key press
(`none` for `key_press_valid` = 0), the held-key level vector, `step_en`, `tick_en`. The input `rand` is the free value
(log 18); `clk` is the succession of cycles. -/
structure CycleInputs where
  rst    : Bool
  load   : Option LoadByte
  press  : Option Nibble
  held   : Vector Bool 16
  stepEn : Bool
  tickEn : Bool
  deriving DecidableEq, Repr

/-- The sampling of the held-key level vector: one SET_HELD a key (10_state.md R42). -/
def heldEvents (held : Vector Bool 16) : List Event := (List.finRange 16).map fun k => .setHeld k.val held[k]

/-- The events of one cycle with `rst` low, in the order they apply: NOTIFY_PRESSED, SET_HELD, STEP, TICK (10_state.md
R43, D2, log 29). The load port is not usable then (R42), so what it presents has no effect. -/
def CycleInputs.events (c : CycleInputs) : List Event :=
  (match c.press with | some k => [.notifyPressed k.toNat] | none => []) ++ heldEvents c.held ++
    (if c.stepEn then [.step] else []) ++ (if c.tickEn then [.tick] else [])

/-- The events of a succession of clock cycles. An unbroken assertion of `rst`, over however many cycles, is one RESET
that stores what the load port presents in them; nothing else happens meanwhile (10_state.md R42;
93_implementation_defined.md U21, log 29). `pending` holds the loads of an assertion that has begun. -/
def cyclesEvents (font : Font) (pending : Option (List LoadByte)) : List CycleInputs → List Event
  | [] =>
    match pending with
    | none => []
    | some ls => [.reset font [] ls]
  | c :: cs =>
    match pending, c.rst with
    | none,    false => c.events ++ cyclesEvents font none cs
    | none,    true  => cyclesEvents font (some c.load.toList) cs
    | some ls, false => .reset font [] ls :: (c.events ++ cyclesEvents font none cs)
    | some ls, true  => cyclesEvents font (some (ls ++ c.load.toList)) cs

/-- Present the events of clock cycles to the core, after those already queued. -/
def State.present (s : State) (font : Font) (cs : List CycleInputs) : State :=
  s.setAgenda (s.agenda ++ cyclesEvents font none cs)

/-- Issue one event now, before those already queued (10_state.md R35). -/
def State.offer (s : State) (e : Event) : State := s.setAgenda (e :: s.agenda)

end Sys2Proof.Machine
end

