-- ==== Sys2Proof/Machine/Step.lean ====
section
/-! DEFINITION. One step of the machine: the next atomic event (10_state.md R35; 70_reset_and_hazards.md R272; log 22).
With an empty agenda it is STEP, one instruction (40_step_and_dispatch.md R100). -/

namespace Sys2Proof.Machine

/-- One step: the next event of the agenda, STEP when there is none. -/
def step (s : State) : Host.Outcome State Fault Refusal := applyNextEvent s

/-- The state with a table word stored where the next STEP fetches (20_memory.md R54), and STEP the very next event; the
host's later events stay (log 24). -/
def State.withFetchWord (s : State) (nbits w : Nat) : State :=
  (s.placeOpcode (tableOpcode nbits w)).setAgenda (.step :: s.agenda)

end Sys2Proof.Machine
end

