-- ==== Sys2Proof/Safety.lean ====
section
/-! DEFINITION. The terms claims are stated in: the invariant of reachable states, what an instruction leaves alone, which
instructions write which registers, the pixels a sprite lights, the end of a run. -/

namespace Sys2Proof.Machine

/-! ### The invariant (10_state.md R45) -/

/-- What holds in every state reachable from reset (10_state.md R45): SP counts 0..16 occupied entries (R25), and memory
is in its canonical form, all of its cells within 4096 bytes (20_memory.md R50, R51). Widths (R34) are in the types. -/
abbrev State.Inv (s : State) : Prop := s.sp.toNat ≤ 16 ∧ Memory.wf s.mem

/-- The next event is STEP: the agenda is empty, or STEP is its first event (log 22). -/
abbrev State.StepIsNext (s : State) : Prop := s.agenda = [] ∨ ∃ rest, s.agenda = .step :: rest

/-! ### Frames -/

/-- One separately readable piece of state: one register, one stack entry, the byte at one address, one pixel, one key,
... PC is not among them: statements give it separately. -/
inductive Loc where
  | reg (r : RegIdx)
  | index
  | sp
  | entry (k : Fin 16)
  | dt
  | st
  | byte (ea : Word16)
  | pixel (x : Fin 64) (y : Fin 32)
  | key (k : Nibble)
  | slot
  | diags
  | draws
  | agenda
  deriving DecidableEq, Repr

/-- The location reads the same in both states. -/
def Loc.Same (l : Loc) (s t : State) : Prop :=
  match l with
  | .reg r     => t.getV r = s.getV r
  | .index     => t.i = s.i
  | .sp        => t.sp = s.sp
  | .entry k   => t.stack[k] = s.stack[k]
  | .dt        => t.dt = s.dt
  | .st        => t.st = s.st
  | .byte ea   => t.memRead ea = s.memRead ea
  | .pixel x y => t.pixel x y = s.pixel x y
  | .key k     => t.getKey k = s.getKey k
  | .slot      => t.slot = s.slot
  | .diags     => t.diags = s.diags
  | .draws     => t.draws = s.draws
  | .agenda    => t.agenda = s.agenda

/-- Every location but those of `changed` reads the same before and after; PC may change. -/
def KeepsAllBut (changed : Loc → Prop) (s t : State) : Prop := ∀ l, ¬ changed l → l.Same s t

/-- The address falls on one of the `n` bytes stored from `base` on (20_memory.md R51: 16-bit wrap, then modulo 4096). -/
def InBlock (base : Word16) (n : Nat) (ea : Word16) : Prop := ∃ k < n, cellOf ea = cellOf (base + BitVec.ofNat 16 k)

/-- The location is one of the `n` bytes of memory from `base` on. -/
def Loc.InStore (base : Word16) (n : Nat) (l : Loc) : Prop := ∃ ea, l = .byte ea ∧ InBlock base n ea

/-! ### What instructions write (10_state.md R22) -/

/-- The general registers an instruction names as destinations: Vx, for 8xy7 Vy, for Fx65 V0..Vx. -/
def IsDestination (r : RegIdx) : Instr → Prop
  | .ldImm x _ | .addImm x _ | .ldReg x _ | .orReg x _ | .andReg x _ | .xorReg x _ | .addReg x _ | .subReg x _
  | .shr x _ | .shl x _ | .rnd x _ | .ldVxDt x | .ldVxK x => r = x
  | .subn _ y => r = y
  | .loadRegs x => r.toNat ≤ x.toNat
  | .cls | .ret | .jp _ | .call _ | .seImm _ _ | .sneImm _ _ | .seReg _ _ | .sneReg _ _ | .ldI _ | .jpV0 _ | .drw _ _ _
  | .skp _ | .sknp _ | .ldDtVx _ | .ldStVx _ | .addI _ | .ldF _ | .ldB _ | .storeRegs _ => False

/-- The six instructions that write VF as a flag (10_state.md R22). -/
def WritesFlag : Instr → Prop
  | .addReg _ _ | .subReg _ _ | .shr _ _ | .subn _ _ | .shl _ _ | .drw _ _ _ => True
  | .cls | .ret | .jp _ | .call _ | .seImm _ _ | .sneImm _ _ | .seReg _ _ | .sneReg _ _ | .ldImm _ _ | .addImm _ _
  | .ldReg _ _ | .orReg _ _ | .andReg _ _ | .xorReg _ _ | .ldI _ | .jpV0 _ | .rnd _ _ | .skp _ | .sknp _ | .ldVxDt _
  | .ldVxK _ | .ldDtVx _ | .ldStVx _ | .addI _ | .ldF _ | .ldB _ | .storeRegs _ | .loadRegs _ => False

/-! ### Diagnostics (60_exceptions.md R231) -/

/-- The diagnostic a STEP from this state records, by the table of 60_exceptions.md R231: the condition of each code. -/
def State.expectedDiags (s : State) : List Diag :=
  match decodeOpcode s.fetch with
  | none           => [⟨.unknownOpcode, s.fetch, s.pc⟩]
  | some (.call _) => if s.sp = 16 then [⟨.stackOverflow, s.fetch, s.pc⟩] else []
  | some .ret      => if s.sp = 0 then [⟨.stackUnderflow, s.fetch, s.pc⟩] else []
  | some (.skp x)  => if 15 < (s.getV x).toNat then [⟨.keyIndexRange, s.fetch, s.pc⟩] else []
  | some (.sknp x) => if 15 < (s.getV x).toNat then [⟨.keyIndexRange, s.fetch, s.pc⟩] else []
  | some _         => []

/-! ### Sprites (45_display.md R186 to R188) -/

/-- The sprite of DRW Vx, Vy, n has a 1 bit over the pixel: row `row` of the n bytes at I, column `col` counted from the
most significant bit, wrapped per pixel. -/
def SpriteCovers (s : State) (x y : RegIdx) (n : Nibble) (px : Fin 64) (py : Fin 32) : Prop :=
  ∃ row < n.toNat, ∃ col < 8, px.val = ((s.getV x).toNat + col) % 64 ∧ py.val = ((s.getV y).toNat + row) % 32 ∧
    (s.memRead (s.i + BitVec.ofNat 16 row)).getLsbD (7 - col) = true

/-! ### Reset (10_state.md R42, R44; 70_reset_and_hazards.md R260 to R263) -/

/-- The byte that cell `a` of memory holds after a RESET: the last one the load port stored there, else FONT below 0x050,
the ROM from 0x200 on, and 0x00 (D3, log 3). -/
def resetByte (font : Font) (rom : List Byte) (loads : List LoadByte) (a : Nat) : Byte :=
  match loads.reverse.find? (·.addr.toNat == a) with
  | some l => l.data
  | none => if a < 80 then font.toList.getD a 0 else if 0x200 ≤ a then rom.getD (a - 0x200) 0 else 0

/-! ### Runs -/

/-- Apply a sequence of host events one after another, stopping at a refusal or a fault. -/
def runEvents : List Event → State → Result
  | [], s => .next s
  | e :: es, s =>
    match applyEvent e s with
    | .next t => runEvents es t
    | .fault f => .fault f
    | .refused r => .refused r

/-- Execute a sequence of instructions one after another, whatever memory holds. -/
def execAll : List Instr → State → Result
  | [], s => .next s
  | i :: is, s =>
    match exec i s with
    | .next t => execAll is t
    | .fault f => .fault f
    | .refused r => .refused r

/-- The states `run 0, run 1, ...` are those of an infinite run that begins in `run 0` and whose n-th event is `es n`: each
is what a step makes of the one before it when the host issues that event (10_state.md R35;
70_reset_and_hazards.md R272). That the events alone settle the states, random bytes included, is the model's choice
(log 36). -/
def IsRun (es : Nat → Event) (run : Nat → State) : Prop := ∀ n, step ((run n).offer (es n)) = .next (run (n + 1))

/-- Ticks keep coming: the fairness premise of 70_reset_and_hazards.md R272. -/
def TicksKeepComing (es : Nat → Event) : Prop := ∀ n, ∃ m ≥ n, es m = .tick

/-- The outcome with another agenda in its next state. -/
def withAgenda (agenda : List Event) : Result → Result
  | .next s => .next (s.setAgenda agenda)
  | .fault f => .fault f
  | .refused r => .refused r

/-- The conventional end of a program (40_step_and_dispatch.md R108, D26): PC holds the address of a 1nnn that jumps to
itself. -/
def State.Idle (s : State) : Prop := ∃ nnn : Addr12, decodeOpcode s.fetch = some (.jp nnn) ∧ s.pc = zextAddr nnn

end Sys2Proof.Machine
end

