-- ==== Sys2Proof/Certificates/Slice0/Obligations.lean ====
section
/-! DEFINITION. The statements for the provers. Each docstring names the rule of spec/ it formalises, and the decision of
the spec or the log entry it rests on. Every statement about an instruction is of EVERY state, PC and stack included. -/

open Sys2Proof Sys2Proof.Machine

/-! ## Encoding -/

/-- Words written out from the encodings of 30_encoding.md R84, at least one a family, decode to what they stand for, and
words the spec calls unrecognised decode to nothing (R86 to R88). -/
def Obligations.SpecWordsDecode : Prop :=
  decodeTableWord 16 0x00E0 = some .cls ∧ decodeTableWord 16 0x00EE = some .ret ∧
  decodeTableWord 16 0x1234 = some (.jp 0x234) ∧ decodeTableWord 16 0x220E = some (.call 0x20E) ∧
  decodeTableWord 16 0x3012 = some (.seImm 0x0 0x12) ∧ decodeTableWord 16 0x9010 = some (.sneReg 0x0 0x1) ∧
  decodeTableWord 16 0x600A = some (.ldImm 0x0 0x0A) ∧ decodeTableWord 16 0x8F17 = some (.subn 0xF 0x1) ∧
  decodeTableWord 16 0xA300 = some (.ldI 0x300) ∧ decodeTableWord 16 0xF255 = some (.storeRegs 0x2) ∧
  decodeTableWord 16 0xC00F = some (.rnd 0x0 0x0F) ∧ decodeTableWord 16 0xD125 = some (.drw 0x1 0x2 0x5) ∧
  decodeTableWord 16 0xE19E = some (.skp 0x1) ∧ decodeTableWord 16 0xF10A = some (.ldVxK 0x1) ∧
  decodeTableWord 16 0xF115 = some (.ldDtVx 0x1) ∧ decodeTableWord 16 0x0000 = none ∧
  decodeTableWord 16 0x01E0 = none ∧ decodeTableWord 16 0x5011 = none ∧ decodeTableWord 16 0x8018 = none ∧
  decodeTableWord 16 0xE09F = none ∧ decodeTableWord 16 0xF075 = none

/-- Decoding the bytes of an instruction gives it back, with every operand at every value, and consumes exactly its two
bytes (30_encoding.md R80, R81, R84). -/
def Obligations.DecodeOfEncodeGivesTheInstruction : Prop :=
  ∀ (i : Instr) (rest : List Byte), decode (encodeBytes i ++ rest) = .ok (i, rest)

/-- Each word has one meaning: the instruction a word decodes to encodes to that very word, so no bit of an accepted
opcode is dropped (30_encoding.md R81, R84). That an accepted word keeps every bit is the spec's decode strictness, its
decision D11 (log 11). -/
def Obligations.EncodeOfDecodeGivesTheWord : Prop :=
  ∀ (w : Word16) (i : Instr), decodeOpcode w = some i → encode i = w

/-- The decoder is the opcode table of 30_encoding.md R84: an instruction it gives stands in the row the word matches, and
a word that matches a row decodes to an instruction of that row (strictness: the spec's decision D11, log 11). -/
def Obligations.DecoderAgreesWithOpcodeTable : Prop :=
  ∀ w : Word16,
    (∀ i, decodeOpcode w = some i → i.row ∈ opcodeRows ∧ w &&& i.row.mask = i.row.pat) ∧
    (∀ r ∈ opcodeRows, w &&& r.mask = r.pat → ∃ i, decodeOpcode w = some i ∧ i.row = r)

/-- The rows of 30_encoding.md R84 are pairwise disjoint: no opcode matches two rows. (The number of rows is
90_conflicts.md C1, log 31; the strict masks are the spec's decision D11, log 11.) -/
def Obligations.OpcodeRowsAreDisjoint : Prop :=
  opcodeRows.length = 34 ∧
  ∀ w : Word16, ∀ r ∈ opcodeRows, ∀ q ∈ opcodeRows, w &&& r.mask = r.pat → w &&& q.mask = q.pat → r = q

/-! ## The step -/

/-- A STEP runs the decoded instruction (40_step_and_dispatch.md R100): when STEP is the next event and the opcode at PC
decodes to `i`, the step is `exec i` of the state (STEP taken off the agenda, log 22), with SLOT emptied afterwards. No
instruction is refused. -/
def Obligations.StepRunsTheDecodedInstruction : Prop :=
  ∀ (s : State) (i : Instr), decodeOpcode s.fetch = some i →
    (∀ r, exec i s ≠ .refused r) ∧
    (s.agenda = [] →
      (∀ t, exec i s = .next t → step s = .next { t with slot := none }) ∧
      (∀ f, exec i s = .fault f → step s = .fault f)) ∧
    (∀ rest, s.agenda = .step :: rest →
      (∀ t, exec i { s with agenda := rest } = .next t → step s = .next { t with slot := none }) ∧
      (∀ f, exec i { s with agenda := rest } = .fault f → step s = .fault f))

/-- The opcode fetched is big-endian: the byte at PC counts 256, the byte at PC + 1 counts 1; addresses equal modulo 4096
read the same byte (20_memory.md R52, R54; the reduction of the fetch address is the spec's decision D4, log 4). -/
def Obligations.FetchIsBigEndian : Prop :=
  ∀ s : State, s.fetch.toNat = (s.memRead s.pc).toNat * 256 + (s.memRead (s.pc + 1)).toNat ∧
    ∀ a c : Word16, a.toNat % 4096 = c.toNat % 4096 → s.memRead a = s.memRead c

/-- UNDEF (40_step_and_dispatch.md R106): a STEP whose opcode matches no row of the opcode table advances PC by 2, reports
UnknownOpcode on the channel if it is enabled and not otherwise, empties SLOT as every step does, and changes nothing
else; 0x0000 and every other 0nnn but 00E0 and 00EE is such an opcode. -/
def Obligations.UnrecognisedOpcodeOnlyAdvances : Prop :=
  (∀ s : State, s.agenda = [] → wellFormedWord s.fetch = false →
    ∃ t, step s = .next t ∧ t.pc = s.pc + 2 ∧ t.slot = none ∧
      t.diagChannel true = s.diagChannel true ++ [⟨.unknownOpcode, s.fetch, s.pc⟩] ∧ t.diagChannel false = [] ∧
      KeepsAllBut (fun l => l = .slot ∨ l = .diags) s t) ∧
  (∀ nnn : Addr12, nnn ≠ 0x0E0 → nnn ≠ 0x0EE → wellFormedWord (formatA 0x0 nnn) = false)

/-- After every STEP that completes, SLOT is NONE (40_step_and_dispatch.md R104; the moment of the reset is the spec's
decision D21, log 21). -/
def Obligations.SlotIsEmptyAfterStep : Prop :=
  ∀ s t : State, s.StepIsNext → step s = .next t → t.slot = none

/-- The core never raises a stopping failure (60_exceptions.md R230; 40_step_and_dispatch.md R100): from every state that
meets the invariant, every next event within the host's contract completes, whatever memory holds. -/
def Obligations.StepCompletesFromInvariant : Prop :=
  ∀ s : State, s.Inv → (∀ e rest, s.agenda = e :: rest → e.wellFormed = true) → ∃ t, step s = .next t

/-- Every step, be it STEP or a host event, keeps the invariant (10_state.md R45): SP counts 0..16 entries, and memory
stays in its canonical form, within 4096 bytes. -/
def Obligations.StepKeepsInvariant : Prop :=
  ∀ s t : State, s.Inv → step s = .next t → t.Inv

/-- The state right after reset meets the invariant (10_state.md R44, R45). -/
def Obligations.ResetMeetsInvariant : Prop := State.reset.Inv

/-- What a STEP may write, by instruction (10_state.md R23, R27, R28, R31; 47_timers.md; 44_random.md): KEY never; DT only
Fx15; ST only Fx18; I only Annn, Fx1E, Fx29; a draw is taken only by Cxkk, and then exactly one. -/
def Obligations.OnlyTheNamedInstructionsWriteSpecialRegisters : Prop :=
  ∀ (i : Instr) (s t : State), exec i s = .next t →
    t.key = s.key ∧ (t.dt ≠ s.dt → ∃ x, i = .ldDtVx x) ∧ (t.st ≠ s.st → ∃ x, i = .ldStVx x) ∧
    (t.i ≠ s.i → (∃ nnn, i = .ldI nnn) ∨ (∃ x, i = .addI x) ∨ ∃ x, i = .ldF x) ∧
    t.draws = s.draws + (match i with | .rnd _ _ => 1 | _ => 0)

/-- Memory is written only by Fx33 and Fx55, and only within the 3, respectively x + 1, bytes from I; pixels change only by
00E0 and Dxyn (20_memory.md R50, R57; 45_display.md R185; 90_conflicts.md C8, log 34). That Fx55 and not Fx65 is the
store is the spec's decision D27 (log 25). -/
def Obligations.OnlyStoresChangeMemoryOnlyDrawsChangePixels : Prop :=
  ∀ (i : Instr) (s t : State), exec i s = .next t →
    (∀ ea, t.memRead ea ≠ s.memRead ea →
      (∃ x, i = .ldB x ∧ InBlock s.i 3 ea) ∨ ∃ x, i = .storeRegs x ∧ InBlock s.i (x.toNat + 1) ea) ∧
    (∀ px py, t.pixel px py ≠ s.pixel px py → i = .cls ∨ ∃ x y n, i = .drw x y n)

/-- A stack entry S[k] is written only by a CALL executed when SP = k, which stores the address of the CALL itself; SP
changes only by CALL, up by one, and by RET, down by one (10_state.md R25, R26; the convention is the spec's decision D5,
log 5). -/
def Obligations.OnlyCallAndReturnMoveTheStack : Prop :=
  ∀ (i : Instr) (s t : State), exec i s = .next t →
    (∀ k : Fin 16, t.stack[k] ≠ s.stack[k] → (∃ nnn, i = .call nnn) ∧ s.sp.toNat = k.val ∧ t.stack[k] = s.pc) ∧
    (t.sp ≠ s.sp → ((∃ nnn, i = .call nnn) ∧ t.sp.toNat = s.sp.toNat + 1) ∨ (i = .ret ∧ s.sp.toNat = t.sp.toNat + 1))

/-- General registers change only as a destination the instruction names, and VF beside that only by the six flag writers
(10_state.md R22; for 8xy0 to 8xy3 and Fx1E the spec's decision D13, log 13). The destinations are those of 42_load_alu.md
to 47_timers.md: Vy for 8xy7 is 93_implementation_defined.md U9 (log 26), and that Fx07 and Fx65 write registers while
Fx15, Fx18 and Fx55 write none is the spec's decision D27 (log 25). -/
def Obligations.RegistersChangeOnlyAsDestinationOrFlag : Prop :=
  ∀ (i : Instr) (s t : State), exec i s = .next t →
    ∀ r, t.getV r ≠ s.getV r → IsDestination r i ∨ (r = VF ∧ WritesFlag i)

/-- After each of the six flag writers VF is 0 or 1, whatever its operands, VF as the destination included
(10_state.md R22; 40_step_and_dispatch.md R105, the spec's decision D7, log 8). -/
def Obligations.FlagWritersLeaveZeroOrOne : Prop :=
  ∀ (i : Instr) (s : State), WritesFlag i → ∃ t, exec i s = .next t ∧ (t.getV VF = 0 ∨ t.getV VF = 1)

/-- A STEP records exactly the diagnostic the table of 60_exceptions.md R231 gives for its opcode and state, and none
otherwise: at most one a step (R236), never AddressBounds, with the opcode being executed and its address (the codes and
the record are the spec's decision D19, code 5 its D15, log 15, 19). The diagnostic port shows that one, and nothing while it is
disabled (10_state.md R42; log 35). -/
def Obligations.DiagnosticsAreExactlyTheTable : Prop :=
  ∀ s t : State, s.agenda = [] → step s = .next t →
    t.diags = s.expectedDiags ++ s.diags ∧ s.expectedDiags.length ≤ 1 ∧
    State.diagPort true s t = s.expectedDiags.head?.map Diag.out ∧ State.diagPort false s t = none

/-! ## Host events and runs -/

/-- TICK (47_timers.md R219): DT and ST go down by 1 if they are not 0; nothing else changes, not PC and not SLOT. (The
agenda that names the event is the model's own, log 22.) -/
def Obligations.TickCountsDown : Prop :=
  ∀ (s : State) (rest : List Event), s.agenda = .tick :: rest →
    ∃ t, step s = .next t ∧ t.dt = (if s.dt ≠ 0 then s.dt - 1 else s.dt) ∧
      t.st = (if s.st ≠ 0 then s.st - 1 else s.st) ∧ t.pc = s.pc ∧ t.agenda = rest ∧
      KeepsAllBut (fun l => l = .dt ∨ l = .st ∨ l = .agenda) s t

/-- Any number of ticks: each timer goes down by that number and stops at 0 (47_timers.md R218, R219; the source's
scenario of 5 and 6 ticks is the case 5). -/
def Obligations.TicksNeverUnderflow : Prop :=
  ∀ (n : Nat) (s : State) (rest : List Event), s.agenda = List.replicate n .tick ++ rest →
    ∃ t, core.run n s = .next t ∧ t.dt.toNat = s.dt.toNat - n ∧ t.st.toNat = s.st.toNat - n ∧ t.pc = s.pc ∧
      t.agenda = rest ∧ KeepsAllBut (fun l => l = .dt ∨ l = .st ∨ l = .agenda) s t

/-- SET_HELD and NOTIFY_PRESSED within the contract write one key, respectively SLOT, and nothing else; a key number above
15 is refused (10_state.md R38, R39; the refusal is the spec's decision D1, log 23). -/
def Obligations.InputEventsWriteOneKeyOrTheSlot : Prop :=
  ∀ (s : State) (k : Nat) (b : Bool) (rest : List Event),
    (s.agenda = .setHeld k b :: rest →
      (∀ h : k < 16, ∃ t, step s = .next t ∧ t.getKey (BitVec.ofNatLT k h) = b ∧ t.pc = s.pc ∧ t.agenda = rest ∧
        KeepsAllBut (fun l => (∃ h, l = .key (BitVec.ofNatLT k h)) ∨ l = .agenda) s t) ∧
      (16 ≤ k → step s = .refused .hostKeyOutOfRange)) ∧
    (s.agenda = .notifyPressed k :: rest →
      (∀ h : k < 16, ∃ t, step s = .next t ∧ t.slot = some (BitVec.ofNatLT k h) ∧ t.pc = s.pc ∧ t.agenda = rest ∧
        KeepsAllBut (fun l => l = .slot ∨ l = .agenda) s t) ∧
      (16 ≤ k → step s = .refused .hostKeyOutOfRange))

/-- The last press wins (10_state.md R39, 46_keypad.md R205; the spec's decision D21, log 21): two presses, then a STEP
whose opcode is Fx0A, deliver the second key, and the wait ends. -/
def Obligations.KeyWaitReceivesTheLastPress : Prop :=
  ∀ (s : State) (x : RegIdx) (j k : Nibble) (rest : List Event), decodeOpcode s.fetch = some (.ldVxK x) →
    s.agenda = .notifyPressed j.toNat :: .notifyPressed k.toNat :: .step :: rest →
    ∃ t, core.run 3 s = .next t ∧ (t.getV x).toNat = k.toNat ∧ t.slot = none ∧ t.pc = s.pc + 2 ∧ t.agenda = rest

/-- Lost key presses (70_reset_and_hazards.md R270; the spec's decision D21, log 21): a press followed by a STEP whose
opcode is not Fx0A leaves exactly what that STEP alone leaves, for the same random byte if the STEP draws one (log 36). -/
def Obligations.PressBeforeAnotherInstructionIsLost : Prop :=
  ∀ (s t : State) (k : Nibble) (rest : List Event), (∀ x, decodeOpcode s.fetch ≠ some (.ldVxK x)) →
    s.agenda = .notifyPressed k.toNat :: .step :: rest →
    step { s with agenda := .step :: rest } = .next t → core.run 2 s = .next t

/-- Every finite sequence of events is a run of the machine (10_state.md R35; 70_reset_and_hazards.md R272): queueing a
sequence and stepping once for each of its events does to the state what applying them one after another does, and leaves
the events queued after them. The agenda that holds them is the model's own (log 22), and so is that both draw the same
random bytes (log 36). -/
def Obligations.EveryEventSequenceIsARun : Prop :=
  ∀ (es rest : List Event) (s : State),
    core.run es.length { s with agenda := es ++ rest } = withAgenda rest (runEvents es s)

/-- Every infinite sequence of events is a run too (70_reset_and_hazards.md R272): from a state that meets the invariant,
any infinite sequence of events within the host's contract has exactly one run, and that run passes through the states its
finite beginnings lead to. That there is only one is the model's choice as far as random bytes go: equal draw counts draw
equal bytes (log 36; 91_not_in_source.md N23 assumes no determinism across runs). -/
def Obligations.EveryInfiniteEventSequenceIsARun : Prop :=
  ∀ (es : Nat → Event) (s : State), s.Inv → (∀ n, (es n).wellFormed = true) →
    ∃ run : Nat → State, run 0 = s ∧ IsRun es run ∧ (∀ n, (run n).Inv) ∧
      (∀ n, runEvents ((List.range n).map es) s = .next (run n)) ∧
      ∀ other : Nat → State, other 0 = s → IsRun es other → other = run

/-- Fairness (70_reset_and_hazards.md R272, consequence (d); 47_timers.md R218, R219): in an infinite run in which ticks
keep coming, a timer that no STEP writes any more (DT by Fx15, ST by Fx18: the spec's decision D27, log 25) reaches 0 and
stays there. -/
def Obligations.TimersReachZeroWhenTicksKeepComing : Prop :=
  ∀ (es : Nat → Event) (run : Nat → State), IsRun es run → TicksKeepComing es →
    ((∀ n x, es n = .step → decodeOpcode (run n).fetch ≠ some (.ldDtVx x)) → ∃ k, ∀ n ≥ k, (run n).dt = 0) ∧
    ((∀ n x, es n = .step → decodeOpcode (run n).fetch ≠ some (.ldStVx x)) → ∃ k, ∀ n ≥ k, (run n).st = 0)

/-- The events of one clock cycle with `rst` low apply in the order NOTIFY_PRESSED, SET_HELD, STEP, TICK (10_state.md R43;
the spec's decision D2, log 29): the STEP sees the pressed key in SLOT and the sampled key vector, and the TICK comes after
it. While `rst` is asserted RESET is the only event, with what the load port presents (R42; its D1, log 29). Both sides of the
first clause draw the same random byte (log 36). -/
def Obligations.ClockCycleOrder : Prop :=
  ∀ (s : State) (font : Font) (c : CycleInputs) (k : Nibble), s.agenda = [] →
    (c.rst = false → c.press = some k → c.stepEn = true → c.tickEn = true →
      ∀ t, step { s with slot := some k, key := c.held } = .next t →
        core.run c.events.length (s.present font [c]) = .next t.tick) ∧
    (c.rst = true → (s.present font [c]).agenda = [.reset font [] c.load.toList])

/-- The load port (10_state.md R42; the spec's decision D1, log 29): cycles with `rst` asserted are one RESET, however
many, after which every byte presented is in memory, the last one at an address winning, and FONT and zeros elsewhere; the
cycle after them follows the RESET. With `rst` low the port has no effect. -/
def Obligations.LoadPortWritesMemoryUnderReset : Prop :=
  ∀ (s : State) (font : Font) (cs : List CycleInputs) (c : CycleInputs) (l : Option LoadByte),
    s.agenda = [] → cs ≠ [] → (∀ d ∈ cs, d.rst = true) → c.rst = false →
    (∃ t, core.run 1 (s.present font cs) = .next t ∧ t.pc = 0x0200 ∧ t.agenda = [] ∧
      ∀ ea, t.memRead ea = resetByte font [] (cs.filterMap (·.load)) (ea.toNat % 4096)) ∧
    (s.present font (cs ++ [c])).agenda = .reset font [] (cs.filterMap (·.load)) :: c.events ∧
    (s.present font [{ c with load := l }]).agenda = c.events

/-! ## Reset -/

/-- The reset vector (70_reset_and_hazards.md R264): PC = 0x0200 after reset, and the first instruction executed is the
big-endian word formed from the first two bytes of the ROM, whatever the FONT. That the reset is one of any state, so a
repeated one too, is the spec's decision D1 (log 28); the agenda that names the event is the model's own (log 22). -/
def Obligations.ResetVector : Prop :=
  ∀ (font : Font) (b0 b1 : Byte) (rom : List Byte) (s : State) (rest : List Event),
    s.agenda = .reset font (b0 :: b1 :: rom) [] :: rest →
    ∃ t, step s = .next t ∧ t.pc = 0x0200 ∧ t.fetch = opcodeOfBytes b0 b1

/-- The event RESET(ROM) leaves the table of 10_state.md R44 (70_reset_and_hazards.md R260 to R265): FONT at 0x000, the
first 3584 bytes of the ROM at 0x200, over them what the load port stored (R42, log 29), everything else zero, empty or
NONE, and no diagnostic. The cleared values are the spec's decision D3 (log 1, 3), the font its parameter D10 (log 2; the
statement holds for every FONT), truncation its D23 (log 24), what goes on is log 28, the agenda log 22. -/
def Obligations.ResetLoadsFontAndRom : Prop :=
  ∀ (font : Font) (rom : List Byte) (loads : List LoadByte) (s : State) (rest : List Event),
    s.agenda = .reset font rom loads :: rest →
    ∃ t, step s = .next t ∧ t.pc = 0x0200 ∧ (∀ r, t.getV r = 0) ∧ t.i = 0 ∧ t.sp = 0 ∧ (∀ k : Fin 16, t.stack[k] = 0) ∧
      t.dt = 0 ∧ t.st = 0 ∧ (∀ x y, t.pixel x y = false) ∧ (∀ k, t.getKey k = false) ∧ t.slot = none ∧ t.diags = [] ∧
      t.draws = s.draws ∧ t.agenda = rest ∧ ∀ ea, t.memRead ea = resetByte font rom loads (ea.toNat % 4096)

/-- The model's reset state: PC = 0x0200 (10_state.md R44), every other register zero, no key held, SLOT empty (the spec's
decision D3, log 1), memory the default font and zeros (log 2, 3); it is the RESET of that font and the empty ROM
(log 24). -/
def Obligations.ResetState : Prop :=
  State.reset.pc = 0x0200 ∧ (∀ r, State.reset.getV r = 0) ∧ State.reset.i = 0 ∧ State.reset.sp = 0 ∧
  (∀ k : Fin 16, State.reset.stack[k] = 0) ∧ State.reset.dt = 0 ∧ State.reset.st = 0 ∧
  (∀ x y, State.reset.pixel x y = false) ∧ (∀ k, State.reset.getKey k = false) ∧ State.reset.slot = none ∧
  (∀ ea : Word16, State.reset.memRead ea =
    if ea.toNat % 4096 < 80 then Config.font.toList.getD (ea.toNat % 4096) 0 else 0) ∧
  State.resetWith Config.font [] = State.reset

/-! ## Memory -/

/-- A read after a write (20_memory.md R51 to R53): the cell of the written address gives the value, every other cell what
it gave before. -/
def Obligations.MemoryReadAfterWrite : Prop :=
  ∀ (s : State) (a c : Word16) (b : Byte),
    (s.memWrite a b).memRead c = if c.toNat % 4096 = a.toNat % 4096 then b else s.memRead c

/-- Self-modifying code (20_memory.md R63, R55): an Fx55 that stores at least two registers over the next instruction
makes the next fetch read V0 as the high and V1 as the low byte of the opcode. -/
def Obligations.StoredInstructionIsFetchedNext : Prop :=
  ∀ (s : State) (x : RegIdx), 1 ≤ x.toNat → s.i = s.pc + 2 →
    ∃ t, exec (.storeRegs x) s = .next t ∧ t.fetch = opcodeOfBytes (s.getV 0) (s.getV 1)

/-! ## Control transfer -/

/-- JP nnn (41_flow.md R120): PC is nnn, for every nnn; nothing else changes. -/
def Obligations.JumpGoesToAddress : Prop :=
  ∀ (nnn : Addr12) (s : State),
    ∃ t, exec (.jp nnn) s = .next t ∧ t.pc.toNat = nnn.toNat ∧ t.pc.toNat ≤ 0x0FFF ∧ KeepsAllBut (fun _ => False) s t

/-- JP V0, nnn (41_flow.md, Bnnn): PC is nnn + V0, stored unreduced (the spec's decision D4, log 4); the sum never
passes 0x10FE; nothing else changes. -/
def Obligations.JumpIndexedGoesToSum : Prop :=
  ∀ (nnn : Addr12) (s : State),
    ∃ t, exec (.jpV0 nnn) s = .next t ∧ t.pc.toNat = nnn.toNat + (s.getV 0).toNat ∧ t.pc.toNat ≤ 0x10FE ∧
      KeepsAllBut (fun _ => False) s t

/-- CALL nnn (41_flow.md, 2nnn): with fewer than 16 entries, S[SP] takes the address of the CALL, SP goes up by one and
PC is nnn; with 16, StackOverflow is recorded, nothing is pushed and PC advances by 2 (the spec's decisions D5, D6, log
5, 6); an SP above 16, which no run reaches, stops (log 7). -/
def Obligations.CallPushesItsAddress : Prop :=
  ∀ (nnn : Addr12) (s : State),
    (∀ h : s.sp.toNat < 16, ∃ t, exec (.call nnn) s = .next t ∧ t.stack[s.sp.toNat] = s.pc ∧
      t.sp.toNat = s.sp.toNat + 1 ∧ t.pc.toNat = nnn.toNat ∧
      KeepsAllBut (fun l => l = .sp ∨ l = .entry ⟨s.sp.toNat, h⟩) s t) ∧
    (s.sp.toNat = 16 → ∃ t, exec (.call nnn) s = .next t ∧ t.pc = s.pc + 2 ∧
      t.diags = ⟨.stackOverflow, formatA 0x2 nnn, s.pc⟩ :: s.diags ∧ KeepsAllBut (fun l => l = .diags) s t) ∧
    (16 < s.sp.toNat → exec (.call nnn) s = .fault .stackIndexOutOfRange)

/-- RET (41_flow.md, 00EE): with 1 to 16 entries, SP goes down by one, PC is the popped entry plus 2, and the entry keeps
its value; with none, StackUnderflow is recorded, nothing is popped and PC advances by 2 (the spec's decisions D5, D6,
log 5, 6); an SP above 16, which no run reaches, stops (log 7). -/
def Obligations.ReturnPopsCallAddress : Prop :=
  ∀ s : State,
    (∀ h : 0 < s.sp.toNat ∧ s.sp.toNat ≤ 16, ∃ t, exec .ret s = .next t ∧ t.sp.toNat = s.sp.toNat - 1 ∧
      t.pc = s.stack[s.sp.toNat - 1] + 2 ∧ KeepsAllBut (fun l => l = .sp) s t) ∧
    (s.sp.toNat = 0 → ∃ t, exec .ret s = .next t ∧ t.pc = s.pc + 2 ∧
      t.diags = ⟨.stackUnderflow, 0x00EE, s.pc⟩ :: s.diags ∧ KeepsAllBut (fun l => l = .diags) s t) ∧
    (16 < s.sp.toNat → exec .ret s = .fault .stackIndexOutOfRange)

/-- The call and return round trip (41_flow.md R129; the spec's decision D5, log 5): any nested calls that fit on the
stack, followed by as many returns, end at the address of the first CALL plus 2 with SP back at its starting value, and
change nothing but the stack entries from the starting SP on. -/
def Obligations.NestedCallsReturn : Prop :=
  ∀ (targets : List Addr12) (s : State), targets ≠ [] → s.sp.toNat + targets.length ≤ 16 →
    ∃ t, execAll (targets.map .call ++ List.replicate targets.length .ret) s = .next t ∧ t.pc = s.pc + 2 ∧
      t.sp = s.sp ∧ KeepsAllBut (fun l => ∃ k, l = .entry k ∧ s.sp.toNat ≤ k.val) s t

/-- The four conditional skips (41_flow.md, 3xkk, 4xkk, 5xy0, 9xy0; which skips on what is the spec's decision D27, log
25): PC + 4 when the condition holds, else PC + 2, with 16-bit wrap; nothing else changes. -/
def Obligations.SkipsCompareRegisters : Prop :=
  ∀ (x y : RegIdx) (kk : Byte) (s : State),
    (∃ t, exec (.seImm x kk) s = .next t ∧ t.pc = (if s.getV x = kk then s.pc + 4 else s.pc + 2) ∧
      KeepsAllBut (fun _ => False) s t) ∧
    (∃ t, exec (.sneImm x kk) s = .next t ∧ t.pc = (if s.getV x ≠ kk then s.pc + 4 else s.pc + 2) ∧
      KeepsAllBut (fun _ => False) s t) ∧
    (∃ t, exec (.seReg x y) s = .next t ∧ t.pc = (if s.getV x = s.getV y then s.pc + 4 else s.pc + 2) ∧
      KeepsAllBut (fun _ => False) s t) ∧
    (∃ t, exec (.sneReg x y) s = .next t ∧ t.pc = (if s.getV x ≠ s.getV y then s.pc + 4 else s.pc + 2) ∧
      KeepsAllBut (fun _ => False) s t)

/-- The idle loop (40_step_and_dispatch.md, end of a run; the spec's decision D26, log 32): a STEP at a jump to itself
changes nothing but that SLOT is empty afterwards. -/
def Obligations.IdleLoopIsFixed : Prop :=
  ∀ s : State, s.Idle → s.agenda = [] → step s = .next { s with slot := none }

/-! ## Load and ALU -/

/-- LD Vx, kk (42_load_alu.md R140): Vx is kk, VF included as a destination; PC advances; nothing else changes. -/
def Obligations.LoadImmediate : Prop :=
  ∀ (x : RegIdx) (kk : Byte) (s : State),
    ∃ t, exec (.ldImm x kk) s = .next t ∧ t.getV x = kk ∧ t.pc = s.pc + 2 ∧ KeepsAllBut (fun l => l = .reg x) s t

/-- ADD Vx, kk (42_load_alu.md R141): Vx is (Vx + kk) mod 256, no flag: VF changes only as the destination. -/
def Obligations.AddImmediateWrapsWithoutFlag : Prop :=
  ∀ (x : RegIdx) (kk : Byte) (s : State),
    ∃ t, exec (.addImm x kk) s = .next t ∧ (t.getV x).toNat = ((s.getV x).toNat + kk.toNat) % 256 ∧ t.pc = s.pc + 2 ∧
      KeepsAllBut (fun l => l = .reg x) s t

/-- LD, OR, AND, XOR Vx, Vy (42_load_alu.md, 8xy0 to 8xy3): bit by bit, Vx alone changes; that VF is left alone is the
spec's decision D13 (log 13). -/
def Obligations.MoveAndLogic : Prop :=
  ∀ (x y : RegIdx) (s : State),
    (∃ t, exec (.ldReg x y) s = .next t ∧ t.getV x = s.getV y ∧ t.pc = s.pc + 2 ∧
      KeepsAllBut (fun l => l = .reg x) s t) ∧
    (∃ t, exec (.orReg x y) s = .next t ∧
      (∀ k, (t.getV x).getLsbD k = ((s.getV x).getLsbD k || (s.getV y).getLsbD k)) ∧ t.pc = s.pc + 2 ∧
      KeepsAllBut (fun l => l = .reg x) s t) ∧
    (∃ t, exec (.andReg x y) s = .next t ∧
      (∀ k, (t.getV x).getLsbD k = ((s.getV x).getLsbD k && (s.getV y).getLsbD k)) ∧ t.pc = s.pc + 2 ∧
      KeepsAllBut (fun l => l = .reg x) s t) ∧
    (∃ t, exec (.xorReg x y) s = .next t ∧
      (∀ k, (t.getV x).getLsbD k = ((s.getV x).getLsbD k != (s.getV y).getLsbD k)) ∧ t.pc = s.pc + 2 ∧
      KeepsAllBut (fun l => l = .reg x) s t)

/-- ADD Vx, Vy (42_load_alu.md, 8xy4): VF is 1 iff the exact sum is above 255, for every x; Vx is the sum modulo 256
unless x is F, where the flag remains (the spec's decision D7, log 8). -/
def Obligations.AddSetsCarry : Prop :=
  ∀ (x y : RegIdx) (s : State),
    ∃ t, exec (.addReg x y) s = .next t ∧
      t.getV VF = (if 255 < (s.getV x).toNat + (s.getV y).toNat then 1 else 0) ∧
      (x ≠ VF → (t.getV x).toNat = ((s.getV x).toNat + (s.getV y).toNat) % 256) ∧ t.pc = s.pc + 2 ∧
      KeepsAllBut (fun l => l = .reg x ∨ l = .reg VF) s t

/-- SUB Vx, Vy (42_load_alu.md, 8xy5): VF is 1 iff Vx > Vy, strictly (90_conflicts.md C5, log 26); Vx is the difference
modulo 256 unless x is F (the spec's decision D7, log 8). -/
def Obligations.SubtractSetsGreater : Prop :=
  ∀ (x y : RegIdx) (s : State),
    ∃ t, exec (.subReg x y) s = .next t ∧ t.getV VF = (if (s.getV x).toNat > (s.getV y).toNat then 1 else 0) ∧
      (x ≠ VF → (t.getV x).toNat = ((s.getV x).toNat + 256 - (s.getV y).toNat) % 256) ∧ t.pc = s.pc + 2 ∧
      KeepsAllBut (fun l => l = .reg x ∨ l = .reg VF) s t

/-- SUBN Vx, Vy (42_load_alu.md, 8xy7): the destination is Vy; VF is 1 iff Vy > Vx, strictly (log 26); Vy is the
difference modulo 256 unless y is F (the spec's decision D7, log 8); Vx is not written. -/
def Obligations.ReverseSubtractWritesVy : Prop :=
  ∀ (x y : RegIdx) (s : State),
    ∃ t, exec (.subn x y) s = .next t ∧ t.getV VF = (if (s.getV y).toNat > (s.getV x).toNat then 1 else 0) ∧
      (y ≠ VF → (t.getV y).toNat = ((s.getV y).toNat + 256 - (s.getV x).toNat) % 256) ∧ t.pc = s.pc + 2 ∧
      KeepsAllBut (fun l => l = .reg y ∨ l = .reg VF) s t

/-- SHR Vx and SHL Vx (42_load_alu.md, 8xy6, 8xyE): VF is the bit shifted out, for every x; Vx is half, respectively
twice modulo 256, unless x is F (the spec's decision D7, log 8); Vy plays no part (its decision D12, log 12). -/
def Obligations.ShiftsMoveOneBit : Prop :=
  ∀ (x y : RegIdx) (s : State),
    (∃ t, exec (.shr x y) s = .next t ∧ (t.getV VF).toNat = (s.getV x).toNat % 2 ∧
      (x ≠ VF → (t.getV x).toNat = (s.getV x).toNat / 2) ∧ t.pc = s.pc + 2 ∧
      KeepsAllBut (fun l => l = .reg x ∨ l = .reg VF) s t) ∧
    (∃ t, exec (.shl x y) s = .next t ∧ (t.getV VF).toNat = (s.getV x).toNat / 128 ∧
      (x ≠ VF → (t.getV x).toNat = (s.getV x).toNat * 2 % 256) ∧ t.pc = s.pc + 2 ∧
      KeepsAllBut (fun l => l = .reg x ∨ l = .reg VF) s t)

/-! ## Index and memory -/

/-- LD I, nnn (43_index_memory.md R160): I is nnn, zero-extended; PC advances; nothing else changes. -/
def Obligations.LoadIndex : Prop :=
  ∀ (nnn : Addr12) (s : State),
    ∃ t, exec (.ldI nnn) s = .next t ∧ t.i.toNat = nnn.toNat ∧ t.pc = s.pc + 2 ∧ KeepsAllBut (fun l => l = .index) s t

/-- ADD I, Vx and LD F, Vx (43_index_memory.md, Fx1E, Fx29): I is (I + Vx) mod 65536, with no flag (the spec's decision
D13, log 13), respectively Vx * 5 of the whole byte (its decision D17, log 17). -/
def Obligations.IndexArithmetic : Prop :=
  ∀ (x : RegIdx) (s : State),
    (∃ t, exec (.addI x) s = .next t ∧ t.i.toNat = (s.i.toNat + (s.getV x).toNat) % 65536 ∧ t.pc = s.pc + 2 ∧
      KeepsAllBut (fun l => l = .index) s t) ∧
    (∃ t, exec (.ldF x) s = .next t ∧ t.i.toNat = (s.getV x).toNat * 5 ∧ t.pc = s.pc + 2 ∧
      KeepsAllBut (fun l => l = .index) s t)

/-- LD B, Vx (43_index_memory.md, Fx33): hundreds, tens and ones of Vx at I, I + 1, I + 2, each address reduced modulo
4096 (the digits are the spec's decision D16, log 16); no other byte, no register, changes. -/
def Obligations.BcdStoresDigits : Prop :=
  ∀ (x : RegIdx) (s : State),
    ∃ t, exec (.ldB x) s = .next t ∧ (t.memRead s.i).toNat = (s.getV x).toNat / 100 ∧
      (t.memRead (s.i + 1)).toNat = (s.getV x).toNat / 10 % 10 ∧
      (t.memRead (s.i + 2)).toNat = (s.getV x).toNat % 10 ∧ t.pc = s.pc + 2 ∧ KeepsAllBut (Loc.InStore s.i 3) s t

/-- LD [I], Vx (43_index_memory.md, Fx55): V0..Vx inclusive at I, I + 1, ...; no other byte changes; registers and I are
unchanged (I: the spec's decision D14, log 14; the direction: its D27, log 25). -/
def Obligations.StoreRegisters : Prop :=
  ∀ (x : RegIdx) (s : State),
    ∃ t, exec (.storeRegs x) s = .next t ∧
      (∀ r : RegIdx, r.toNat ≤ x.toNat → t.memRead (s.i + BitVec.ofNat 16 r.toNat) = s.getV r) ∧ t.pc = s.pc + 2 ∧
      KeepsAllBut (Loc.InStore s.i (x.toNat + 1)) s t

/-- LD Vx, [I] (43_index_memory.md, Fx65): V0..Vx inclusive from I, I + 1, ...; the registers above Vx, I and memory are
unchanged (I: the spec's decision D14, log 14; the direction: its D27, log 25). -/
def Obligations.LoadRegisters : Prop :=
  ∀ (x : RegIdx) (s : State),
    ∃ t, exec (.loadRegs x) s = .next t ∧
      (∀ r : RegIdx, r.toNat ≤ x.toNat → t.getV r = s.memRead (s.i + BitVec.ofNat 16 r.toNat)) ∧ t.pc = s.pc + 2 ∧
      KeepsAllBut (fun l => ∃ r : RegIdx, l = .reg r ∧ r.toNat ≤ x.toNat) s t

/-- What Fx55 stored, Fx65 loads back from any later state with the same memory and the same I
(43_index_memory.md; decisions D14, D27, log 14, 25). -/
def Obligations.StoreThenLoadRestoresRegisters : Prop :=
  ∀ (x : RegIdx) (s t u : State), exec (.storeRegs x) s = .next t → u.mem = t.mem → u.i = s.i →
    ∃ w, exec (.loadRegs x) u = .next w ∧ (∀ r : RegIdx, r.toNat ≤ x.toNat → w.getV r = s.getV r) ∧ w.mem = u.mem

/-! ## Random, display, keypad, timers -/

/-- RND Vx, kk (44_random.md R180): Vx is the next drawn byte AND kk, one draw is consumed, nothing else changes. The byte
is free (log 18): the statement holds for every value of every draw. -/
def Obligations.RandomIsMasked : Prop :=
  ∀ (x : RegIdx) (kk : Byte) (s : State),
    ∃ t, exec (.rnd x kk) s = .next t ∧ t.getV x = Config.randByte s.draws &&& kk ∧
      (∀ k, kk.getLsbD k = false → (t.getV x).getLsbD k = false) ∧ t.draws = s.draws + 1 ∧ t.pc = s.pc + 2 ∧
      KeepsAllBut (fun l => l = .reg x ∨ l = .draws) s t

/-- CLS (45_display.md R185): every pixel is 0; VF is not written; nothing else changes. -/
def Obligations.ClearScreen : Prop :=
  ∀ s : State, ∃ t, exec .cls s = .next t ∧ (∀ x y, t.pixel x y = false) ∧ t.pc = s.pc + 2 ∧
    KeepsAllBut (fun l => ∃ x y, l = .pixel x y) s t

/-- DRW Vx, Vy, n (45_display.md, Dxyn): the pixels under a 1 bit of the sprite flip, all others stay, wrapped per pixel;
VF is 1 iff a flipped pixel was lit before; coordinates are those held before the draw (the spec's decision D8, log 9;
the bit order its D9, log 10). Memory, I and every other register stay. -/
def Obligations.DrawFlipsSpritePixels : Prop :=
  ∀ (x y : RegIdx) (n : Nibble) (s : State),
    ∃ t, exec (.drw x y n) s = .next t ∧
      (∀ px py, SpriteCovers s x y n px py → t.pixel px py = !s.pixel px py) ∧
      (∀ px py, ¬ SpriteCovers s x y n px py → t.pixel px py = s.pixel px py) ∧
      (t.getV VF = 1 ↔ ∃ px py, SpriteCovers s x y n px py ∧ s.pixel px py = true) ∧
      (t.getV VF = 0 ↔ ¬ ∃ px py, SpriteCovers s x y n px py ∧ s.pixel px py = true) ∧ t.pc = s.pc + 2 ∧
      KeepsAllBut (fun l => l = .reg VF ∨ ∃ px py, l = .pixel px py) s t

/-- Drawing twice (45_display.md, double draw; 90_conflicts.md C6, log 33): the second draw of the same sprite at the same
place restores every pixel, and its flag is 1 iff a covered pixel was 0 before the first draw. The coordinates must not
be VF, which the first draw writes. -/
def Obligations.DrawTwiceRestores : Prop :=
  ∀ (x y : RegIdx) (n : Nibble) (s : State), x ≠ VF → y ≠ VF →
    ∃ t u, exec (.drw x y n) s = .next t ∧ exec (.drw x y n) t = .next u ∧
      (∀ px py, u.pixel px py = s.pixel px py) ∧
      (u.getV VF = 1 ↔ ∃ px py, SpriteCovers s x y n px py ∧ s.pixel px py = false)

/-- SKP and SKNP Vx (46_keypad.md, Ex9E, ExA1; which skips on held is the spec's decision D27, log 25): for a key number
up to 15 the skip is on KEY; above 15 the key counts as not held and KeyIndexRange is recorded (its decision D15, log 15).
Nothing is consumed. -/
def Obligations.KeySkips : Prop :=
  ∀ (x : RegIdx) (s : State),
    (∀ h : (s.getV x).toNat < 16,
      (∃ t, exec (.skp x) s = .next t ∧
        t.pc = (if s.key[(s.getV x).toNat] = true then s.pc + 4 else s.pc + 2) ∧ KeepsAllBut (fun _ => False) s t) ∧
      (∃ t, exec (.sknp x) s = .next t ∧
        t.pc = (if s.key[(s.getV x).toNat] = false then s.pc + 4 else s.pc + 2) ∧ KeepsAllBut (fun _ => False) s t)) ∧
    (16 ≤ (s.getV x).toNat →
      (∃ t, exec (.skp x) s = .next t ∧ t.pc = s.pc + 2 ∧
        t.diags = ⟨.keyIndexRange, formatK 0xE x 0x9E, s.pc⟩ :: s.diags ∧ KeepsAllBut (fun l => l = .diags) s t) ∧
      (∃ t, exec (.sknp x) s = .next t ∧ t.pc = s.pc + 4 ∧
        t.diags = ⟨.keyIndexRange, formatK 0xE x 0xA1, s.pc⟩ :: s.diags ∧ KeepsAllBut (fun l => l = .diags) s t))

/-- LD Vx, K (46_keypad.md R203): with SLOT empty PC is unchanged and so is everything else; with a key, Vx is its number,
zero-extended, SLOT is consumed and PC advances. -/
def Obligations.KeyWaitBlocksOrDelivers : Prop :=
  ∀ (x : RegIdx) (s : State),
    (s.slot = none → ∃ t, exec (.ldVxK x) s = .next t ∧ t.pc = s.pc ∧ KeepsAllBut (fun _ => False) s t) ∧
    (∀ k, s.slot = some k → ∃ t, exec (.ldVxK x) s = .next t ∧ (t.getV x).toNat = k.toNat ∧ t.slot = none ∧
      t.pc = s.pc + 2 ∧ KeepsAllBut (fun l => l = .reg x ∨ l = .slot) s t)

/-- LD Vx, DT; LD DT, Vx; LD ST, Vx (47_timers.md, Fx07, Fx15, Fx18; the directions are the spec's decision D27, log 25):
one copy, PC advances, nothing else changes. -/
def Obligations.TimerCopies : Prop :=
  ∀ (x : RegIdx) (s : State),
    (∃ t, exec (.ldVxDt x) s = .next t ∧ t.getV x = s.dt ∧ t.pc = s.pc + 2 ∧
      KeepsAllBut (fun l => l = .reg x) s t) ∧
    (∃ t, exec (.ldDtVx x) s = .next t ∧ t.dt = s.getV x ∧ t.pc = s.pc + 2 ∧ KeepsAllBut (fun l => l = .dt) s t) ∧
    (∃ t, exec (.ldStVx x) s = .next t ∧ t.st = s.getV x ∧ t.pc = s.pc + 2 ∧ KeepsAllBut (fun l => l = .st) s t)
end

