-- ==== Sys2Proof/Laws/Decode.lean ====
section
/-! SUPPORT. The fields of an encoded opcode, and the bytes of an opcode (30_encoding.md R81, R82; 20_memory.md R54). -/

namespace Sys2Proof

/-! ### The bits of an encoded opcode -/

theorem getLsbD_formatA (op : Nibble) (nnn : Addr12) (i : Nat) :
    (formatA op nnn).getLsbD i = if i < 12 then nnn.getLsbD i else op.getLsbD (i - 12) := BitVec.getLsbD_append

theorem getLsbD_formatK (op : Nibble) (x : RegIdx) (kk : Byte) (i : Nat) :
    (formatK op x kk).getLsbD i =
      if i < 12 then if i < 8 then kk.getLsbD i else x.getLsbD (i - 8) else op.getLsbD (i - 12) := by
  refine BitVec.getLsbD_append.trans ?_
  rw [BitVec.getLsbD_append]

theorem getLsbD_opcodeOfDigits (op x y n : Nibble) (i : Nat) :
    (opcodeOfDigits op x y n).getLsbD i =
      if i < 12 then if i < 8 then if i < 4 then n.getLsbD i else y.getLsbD (i - 4) else x.getLsbD (i - 8)
      else op.getLsbD (i - 12) := by
  refine BitVec.getLsbD_append.trans ?_
  rw [BitVec.getLsbD_append, BitVec.getLsbD_append]

theorem getLsbD_opcodeOfBytes (hi lo : Byte) (i : Nat) :
    (opcodeOfBytes hi lo).getLsbD i = if i < 8 then lo.getLsbD i else hi.getLsbD (i - 8) := BitVec.getLsbD_append

theorem getLsbD_digit (w : Word16) (lo i : Nat) : (digit w lo).getLsbD i = (decide (i < 4) && w.getLsbD (lo + i)) :=
  BitVec.getLsbD_extractLsb' ..

/-! ### The fields of an encoded opcode -/

@[simp] theorem fieldOp_formatA (op : Nibble) (nnn : Addr12) : fieldOp (formatA op nnn) = op := by
  refine BitVec.eq_of_getLsbD_eq fun i hi => ?_
  simp only [fieldOp, getLsbD_digit, getLsbD_formatA]
  simp [hi]

@[simp] theorem fieldNNN_formatA (op : Nibble) (nnn : Addr12) : fieldNNN (formatA op nnn) = nnn := by
  refine BitVec.eq_of_getLsbD_eq fun i hi => ?_
  simp only [fieldNNN, BitVec.getLsbD_extractLsb', getLsbD_formatA]
  simp [hi]

@[simp] theorem fieldOp_formatK (op : Nibble) (x : RegIdx) (kk : Byte) : fieldOp (formatK op x kk) = op := by
  refine BitVec.eq_of_getLsbD_eq fun i hi => ?_
  simp only [fieldOp, getLsbD_digit, getLsbD_formatK]
  simp [hi]

@[simp] theorem fieldX_formatK (op : Nibble) (x : RegIdx) (kk : Byte) : fieldX (formatK op x kk) = x := by
  refine BitVec.eq_of_getLsbD_eq fun i hi => ?_
  simp only [fieldX, getLsbD_digit, getLsbD_formatK]
  simp [hi, show 8 + i < 12 by omega]

@[simp] theorem fieldKK_formatK (op : Nibble) (x : RegIdx) (kk : Byte) : fieldKK (formatK op x kk) = kk := by
  refine BitVec.eq_of_getLsbD_eq fun i hi => ?_
  simp only [fieldKK, BitVec.getLsbD_extractLsb', getLsbD_formatK]
  simp [hi, show i < 12 by omega]

@[simp] theorem fieldOp_opcodeOfDigits (op x y n : Nibble) : fieldOp (opcodeOfDigits op x y n) = op := by
  refine BitVec.eq_of_getLsbD_eq fun i hi => ?_
  simp only [fieldOp, getLsbD_digit, getLsbD_opcodeOfDigits]
  simp [hi]

@[simp] theorem fieldX_opcodeOfDigits (op x y n : Nibble) : fieldX (opcodeOfDigits op x y n) = x := by
  refine BitVec.eq_of_getLsbD_eq fun i hi => ?_
  simp only [fieldX, getLsbD_digit, getLsbD_opcodeOfDigits]
  simp [hi, show 8 + i < 12 by omega]

@[simp] theorem fieldY_opcodeOfDigits (op x y n : Nibble) : fieldY (opcodeOfDigits op x y n) = y := by
  refine BitVec.eq_of_getLsbD_eq fun i hi => ?_
  simp only [fieldY, getLsbD_digit, getLsbD_opcodeOfDigits]
  simp [hi, show 4 + i < 12 by omega, show 4 + i < 8 by omega]

@[simp] theorem fieldN_opcodeOfDigits (op x y n : Nibble) : fieldN (opcodeOfDigits op x y n) = n := by
  refine BitVec.eq_of_getLsbD_eq fun i hi => ?_
  simp only [fieldN, getLsbD_digit, getLsbD_opcodeOfDigits]
  simp [hi, show i < 12 by omega, show i < 8 by omega]

/-! ### An opcode from its fields -/

/-- A word is its family digit and nnn (format A). -/
theorem formatA_fields (w : Word16) : formatA (fieldOp w) (fieldNNN w) = w := by
  refine BitVec.eq_of_getLsbD_eq fun i hi => ?_
  rw [getLsbD_formatA, fieldOp, fieldNNN, getLsbD_digit, BitVec.getLsbD_extractLsb']
  split
  · simp [*]
  · simp [show i - 12 < 4 by omega, show 12 + (i - 12) = i by omega]

/-- A word is its family digit, x and kk (formats K and X). -/
theorem formatK_fields (w : Word16) : formatK (fieldOp w) (fieldX w) (fieldKK w) = w := by
  refine BitVec.eq_of_getLsbD_eq fun i hi => ?_
  rw [getLsbD_formatK, fieldOp, fieldX, fieldKK, getLsbD_digit, getLsbD_digit, BitVec.getLsbD_extractLsb']
  split
  · split
    · simp [*]
    · simp [show i - 8 < 4 by omega, show 8 + (i - 8) = i by omega]
  · simp [show i - 12 < 4 by omega, show 12 + (i - 12) = i by omega]

/-- A word is its four digits (format R). -/
theorem opcodeOfDigits_fields (w : Word16) : opcodeOfDigits (fieldOp w) (fieldX w) (fieldY w) (fieldN w) = w := by
  refine BitVec.eq_of_getLsbD_eq fun i hi => ?_
  rw [getLsbD_opcodeOfDigits, fieldOp, fieldX, fieldY, fieldN]
  simp only [getLsbD_digit]
  split
  · split
    · split
      · simp [*]
      · simp [show i - 4 < 4 by omega, show 4 + (i - 4) = i by omega]
    · simp [show i - 8 < 4 by omega, show 8 + (i - 8) = i by omega]
  · simp [show i - 12 < 4 by omega, show 12 + (i - 12) = i by omega]

/-! ### Masked opcodes: what the mask of a row leaves of an encoded opcode (R84) -/

theorem formatA_and_F000 (op : Nibble) (nnn : Addr12) : formatA op nnn &&& 0xF000 = formatA op 0 := by
  refine BitVec.eq_of_getLsbD_eq fun i hi => ?_
  rw [BitVec.getLsbD_and, getLsbD_formatA, getLsbD_formatA]
  interval_cases i <;> simp

theorem formatK_and_F000 (op : Nibble) (x : RegIdx) (kk : Byte) : formatK op x kk &&& 0xF000 = formatK op 0 0 := by
  refine BitVec.eq_of_getLsbD_eq fun i hi => ?_
  rw [BitVec.getLsbD_and, getLsbD_formatK, getLsbD_formatK]
  interval_cases i <;> simp

theorem formatK_and_F0FF (op : Nibble) (x : RegIdx) (kk : Byte) : formatK op x kk &&& 0xF0FF = formatK op 0 kk := by
  refine BitVec.eq_of_getLsbD_eq fun i hi => ?_
  rw [BitVec.getLsbD_and, getLsbD_formatK, getLsbD_formatK]
  interval_cases i <;> simp

theorem opcodeOfDigits_and_F00F (op x y n : Nibble) :
    opcodeOfDigits op x y n &&& 0xF00F = opcodeOfDigits op 0 0 n := by
  refine BitVec.eq_of_getLsbD_eq fun i hi => ?_
  rw [BitVec.getLsbD_and, getLsbD_opcodeOfDigits, getLsbD_opcodeOfDigits]
  interval_cases i <;> simp

theorem opcodeOfDigits_and_F000 (op x y n : Nibble) :
    opcodeOfDigits op x y n &&& 0xF000 = opcodeOfDigits op 0 0 0 := by
  refine BitVec.eq_of_getLsbD_eq fun i hi => ?_
  rw [BitVec.getLsbD_and, getLsbD_opcodeOfDigits, getLsbD_opcodeOfDigits]
  interval_cases i <;> simp

/-! ### The bytes of an opcode -/

@[simp] theorem opcodeOfBytes_hi_lo (w : Word16) : opcodeOfBytes (opcodeHi w) (opcodeLo w) = w := by
  refine BitVec.eq_of_getLsbD_eq fun i hi => ?_
  rw [getLsbD_opcodeOfBytes, opcodeHi, opcodeLo, BitVec.getLsbD_extractLsb', BitVec.getLsbD_extractLsb']
  split
  · simp [*]
  · simp [show i - 8 < 8 by omega, show 8 + (i - 8) = i by omega]

/-- The bytes of an opcode as numbers: the high one counts 256 (R54). -/
theorem toNat_opcodeOfBytes (hi lo : Byte) : (opcodeOfBytes hi lo).toNat = hi.toNat * 256 + lo.toNat := by
  refine (BitVec.toNat_append hi lo).trans ?_
  rw [← Nat.shiftLeft_add_eq_or_of_lt lo.isLt, Nat.shiftLeft_eq]

end Sys2Proof
end

