-- ==== Sys2Proof/Laws/State.lean ====
section
/-! SUPPORT. What each update of the state does to each field and to each reading operation: one lemma per field and
update, so that no proof unfolds a record update. The lemmas that say what an update's own location reads as afterwards
stand at the end of the file. -/

namespace Sys2Proof.Machine

variable (s : State)

/-! ### setV -/

@[simp] theorem State.setV_v (r : RegIdx) (b : Byte) : (s.setV r b).v = s.v.set r.toNat b r.isLt := rfl
@[simp] theorem State.setV_i (r : RegIdx) (b : Byte) : (s.setV r b).i = s.i := rfl
@[simp] theorem State.setV_pc (r : RegIdx) (b : Byte) : (s.setV r b).pc = s.pc := rfl
@[simp] theorem State.setV_sp (r : RegIdx) (b : Byte) : (s.setV r b).sp = s.sp := rfl
@[simp] theorem State.setV_stack (r : RegIdx) (b : Byte) : (s.setV r b).stack = s.stack := rfl
@[simp] theorem State.setV_dt (r : RegIdx) (b : Byte) : (s.setV r b).dt = s.dt := rfl
@[simp] theorem State.setV_st (r : RegIdx) (b : Byte) : (s.setV r b).st = s.st := rfl
@[simp] theorem State.setV_mem (r : RegIdx) (b : Byte) : (s.setV r b).mem = s.mem := rfl
@[simp] theorem State.setV_fb (r : RegIdx) (b : Byte) : (s.setV r b).fb = s.fb := rfl
@[simp] theorem State.setV_key (r : RegIdx) (b : Byte) : (s.setV r b).key = s.key := rfl
@[simp] theorem State.setV_slot (r : RegIdx) (b : Byte) : (s.setV r b).slot = s.slot := rfl
@[simp] theorem State.setV_diags (r : RegIdx) (b : Byte) : (s.setV r b).diags = s.diags := rfl
@[simp] theorem State.setV_draws (r : RegIdx) (b : Byte) : (s.setV r b).draws = s.draws := rfl
@[simp] theorem State.setV_agenda (r : RegIdx) (b : Byte) : (s.setV r b).agenda = s.agenda := rfl
@[simp] theorem State.setV_memRead (r : RegIdx) (b : Byte) (ea : Word16) : (s.setV r b).memRead ea = s.memRead ea := rfl
@[simp] theorem State.setV_pixel (r : RegIdx) (b : Byte) (px : Fin 64) (py : Fin 32) : (s.setV r b).pixel px py = s.pixel px py := rfl
@[simp] theorem State.setV_getKey (r : RegIdx) (b : Byte) (k : Nibble) : (s.setV r b).getKey k = s.getKey k := rfl
@[simp] theorem State.setV_fetch (r : RegIdx) (b : Byte) : (s.setV r b).fetch = s.fetch := rfl

/-! ### loadV -/

@[simp] theorem State.loadV_v (bs : List Byte) : (s.loadV bs).v = loadRegFile s.v 0 bs := rfl
@[simp] theorem State.loadV_i (bs : List Byte) : (s.loadV bs).i = s.i := rfl
@[simp] theorem State.loadV_pc (bs : List Byte) : (s.loadV bs).pc = s.pc := rfl
@[simp] theorem State.loadV_sp (bs : List Byte) : (s.loadV bs).sp = s.sp := rfl
@[simp] theorem State.loadV_stack (bs : List Byte) : (s.loadV bs).stack = s.stack := rfl
@[simp] theorem State.loadV_dt (bs : List Byte) : (s.loadV bs).dt = s.dt := rfl
@[simp] theorem State.loadV_st (bs : List Byte) : (s.loadV bs).st = s.st := rfl
@[simp] theorem State.loadV_mem (bs : List Byte) : (s.loadV bs).mem = s.mem := rfl
@[simp] theorem State.loadV_fb (bs : List Byte) : (s.loadV bs).fb = s.fb := rfl
@[simp] theorem State.loadV_key (bs : List Byte) : (s.loadV bs).key = s.key := rfl
@[simp] theorem State.loadV_slot (bs : List Byte) : (s.loadV bs).slot = s.slot := rfl
@[simp] theorem State.loadV_diags (bs : List Byte) : (s.loadV bs).diags = s.diags := rfl
@[simp] theorem State.loadV_draws (bs : List Byte) : (s.loadV bs).draws = s.draws := rfl
@[simp] theorem State.loadV_agenda (bs : List Byte) : (s.loadV bs).agenda = s.agenda := rfl
@[simp] theorem State.loadV_memRead (bs : List Byte) (ea : Word16) : (s.loadV bs).memRead ea = s.memRead ea := rfl
@[simp] theorem State.loadV_pixel (bs : List Byte) (px : Fin 64) (py : Fin 32) : (s.loadV bs).pixel px py = s.pixel px py := rfl
@[simp] theorem State.loadV_getKey (bs : List Byte) (k : Nibble) : (s.loadV bs).getKey k = s.getKey k := rfl
@[simp] theorem State.loadV_fetch (bs : List Byte) : (s.loadV bs).fetch = s.fetch := rfl

/-! ### setFlag -/

@[simp] theorem State.setFlag_v (c : Bool) : (s.setFlag c).v = s.v.set 15 (flagByte c) := rfl
@[simp] theorem State.setFlag_i (c : Bool) : (s.setFlag c).i = s.i := rfl
@[simp] theorem State.setFlag_pc (c : Bool) : (s.setFlag c).pc = s.pc := rfl
@[simp] theorem State.setFlag_sp (c : Bool) : (s.setFlag c).sp = s.sp := rfl
@[simp] theorem State.setFlag_stack (c : Bool) : (s.setFlag c).stack = s.stack := rfl
@[simp] theorem State.setFlag_dt (c : Bool) : (s.setFlag c).dt = s.dt := rfl
@[simp] theorem State.setFlag_st (c : Bool) : (s.setFlag c).st = s.st := rfl
@[simp] theorem State.setFlag_mem (c : Bool) : (s.setFlag c).mem = s.mem := rfl
@[simp] theorem State.setFlag_fb (c : Bool) : (s.setFlag c).fb = s.fb := rfl
@[simp] theorem State.setFlag_key (c : Bool) : (s.setFlag c).key = s.key := rfl
@[simp] theorem State.setFlag_slot (c : Bool) : (s.setFlag c).slot = s.slot := rfl
@[simp] theorem State.setFlag_diags (c : Bool) : (s.setFlag c).diags = s.diags := rfl
@[simp] theorem State.setFlag_draws (c : Bool) : (s.setFlag c).draws = s.draws := rfl
@[simp] theorem State.setFlag_agenda (c : Bool) : (s.setFlag c).agenda = s.agenda := rfl
@[simp] theorem State.setFlag_memRead (c : Bool) (ea : Word16) : (s.setFlag c).memRead ea = s.memRead ea := rfl
@[simp] theorem State.setFlag_pixel (c : Bool) (px : Fin 64) (py : Fin 32) : (s.setFlag c).pixel px py = s.pixel px py := rfl
@[simp] theorem State.setFlag_getKey (c : Bool) (k : Nibble) : (s.setFlag c).getKey k = s.getKey k := rfl
@[simp] theorem State.setFlag_fetch (c : Bool) : (s.setFlag c).fetch = s.fetch := rfl

/-! ### setI -/

@[simp] theorem State.setI_v (a : Word16) : (s.setI a).v = s.v := rfl
@[simp] theorem State.setI_i (a : Word16) : (s.setI a).i = a := rfl
@[simp] theorem State.setI_pc (a : Word16) : (s.setI a).pc = s.pc := rfl
@[simp] theorem State.setI_sp (a : Word16) : (s.setI a).sp = s.sp := rfl
@[simp] theorem State.setI_stack (a : Word16) : (s.setI a).stack = s.stack := rfl
@[simp] theorem State.setI_dt (a : Word16) : (s.setI a).dt = s.dt := rfl
@[simp] theorem State.setI_st (a : Word16) : (s.setI a).st = s.st := rfl
@[simp] theorem State.setI_mem (a : Word16) : (s.setI a).mem = s.mem := rfl
@[simp] theorem State.setI_fb (a : Word16) : (s.setI a).fb = s.fb := rfl
@[simp] theorem State.setI_key (a : Word16) : (s.setI a).key = s.key := rfl
@[simp] theorem State.setI_slot (a : Word16) : (s.setI a).slot = s.slot := rfl
@[simp] theorem State.setI_diags (a : Word16) : (s.setI a).diags = s.diags := rfl
@[simp] theorem State.setI_draws (a : Word16) : (s.setI a).draws = s.draws := rfl
@[simp] theorem State.setI_agenda (a : Word16) : (s.setI a).agenda = s.agenda := rfl
@[simp] theorem State.setI_getV (a : Word16) (q : RegIdx) : (s.setI a).getV q = s.getV q := rfl
@[simp] theorem State.setI_memRead (a : Word16) (ea : Word16) : (s.setI a).memRead ea = s.memRead ea := rfl
@[simp] theorem State.setI_pixel (a : Word16) (px : Fin 64) (py : Fin 32) : (s.setI a).pixel px py = s.pixel px py := rfl
@[simp] theorem State.setI_getKey (a : Word16) (k : Nibble) : (s.setI a).getKey k = s.getKey k := rfl
@[simp] theorem State.setI_fetch (a : Word16) : (s.setI a).fetch = s.fetch := rfl

/-! ### setDt -/

@[simp] theorem State.setDt_v (b : Byte) : (s.setDt b).v = s.v := rfl
@[simp] theorem State.setDt_i (b : Byte) : (s.setDt b).i = s.i := rfl
@[simp] theorem State.setDt_pc (b : Byte) : (s.setDt b).pc = s.pc := rfl
@[simp] theorem State.setDt_sp (b : Byte) : (s.setDt b).sp = s.sp := rfl
@[simp] theorem State.setDt_stack (b : Byte) : (s.setDt b).stack = s.stack := rfl
@[simp] theorem State.setDt_dt (b : Byte) : (s.setDt b).dt = b := rfl
@[simp] theorem State.setDt_st (b : Byte) : (s.setDt b).st = s.st := rfl
@[simp] theorem State.setDt_mem (b : Byte) : (s.setDt b).mem = s.mem := rfl
@[simp] theorem State.setDt_fb (b : Byte) : (s.setDt b).fb = s.fb := rfl
@[simp] theorem State.setDt_key (b : Byte) : (s.setDt b).key = s.key := rfl
@[simp] theorem State.setDt_slot (b : Byte) : (s.setDt b).slot = s.slot := rfl
@[simp] theorem State.setDt_diags (b : Byte) : (s.setDt b).diags = s.diags := rfl
@[simp] theorem State.setDt_draws (b : Byte) : (s.setDt b).draws = s.draws := rfl
@[simp] theorem State.setDt_agenda (b : Byte) : (s.setDt b).agenda = s.agenda := rfl
@[simp] theorem State.setDt_getV (b : Byte) (q : RegIdx) : (s.setDt b).getV q = s.getV q := rfl
@[simp] theorem State.setDt_memRead (b : Byte) (ea : Word16) : (s.setDt b).memRead ea = s.memRead ea := rfl
@[simp] theorem State.setDt_pixel (b : Byte) (px : Fin 64) (py : Fin 32) : (s.setDt b).pixel px py = s.pixel px py := rfl
@[simp] theorem State.setDt_getKey (b : Byte) (k : Nibble) : (s.setDt b).getKey k = s.getKey k := rfl
@[simp] theorem State.setDt_fetch (b : Byte) : (s.setDt b).fetch = s.fetch := rfl

/-! ### setSt -/

@[simp] theorem State.setSt_v (b : Byte) : (s.setSt b).v = s.v := rfl
@[simp] theorem State.setSt_i (b : Byte) : (s.setSt b).i = s.i := rfl
@[simp] theorem State.setSt_pc (b : Byte) : (s.setSt b).pc = s.pc := rfl
@[simp] theorem State.setSt_sp (b : Byte) : (s.setSt b).sp = s.sp := rfl
@[simp] theorem State.setSt_stack (b : Byte) : (s.setSt b).stack = s.stack := rfl
@[simp] theorem State.setSt_dt (b : Byte) : (s.setSt b).dt = s.dt := rfl
@[simp] theorem State.setSt_st (b : Byte) : (s.setSt b).st = b := rfl
@[simp] theorem State.setSt_mem (b : Byte) : (s.setSt b).mem = s.mem := rfl
@[simp] theorem State.setSt_fb (b : Byte) : (s.setSt b).fb = s.fb := rfl
@[simp] theorem State.setSt_key (b : Byte) : (s.setSt b).key = s.key := rfl
@[simp] theorem State.setSt_slot (b : Byte) : (s.setSt b).slot = s.slot := rfl
@[simp] theorem State.setSt_diags (b : Byte) : (s.setSt b).diags = s.diags := rfl
@[simp] theorem State.setSt_draws (b : Byte) : (s.setSt b).draws = s.draws := rfl
@[simp] theorem State.setSt_agenda (b : Byte) : (s.setSt b).agenda = s.agenda := rfl
@[simp] theorem State.setSt_getV (b : Byte) (q : RegIdx) : (s.setSt b).getV q = s.getV q := rfl
@[simp] theorem State.setSt_memRead (b : Byte) (ea : Word16) : (s.setSt b).memRead ea = s.memRead ea := rfl
@[simp] theorem State.setSt_pixel (b : Byte) (px : Fin 64) (py : Fin 32) : (s.setSt b).pixel px py = s.pixel px py := rfl
@[simp] theorem State.setSt_getKey (b : Byte) (k : Nibble) : (s.setSt b).getKey k = s.getKey k := rfl
@[simp] theorem State.setSt_fetch (b : Byte) : (s.setSt b).fetch = s.fetch := rfl

/-! ### memWrite -/

@[simp] theorem State.memWrite_v (a : Word16) (b : Byte) : (s.memWrite a b).v = s.v := rfl
@[simp] theorem State.memWrite_i (a : Word16) (b : Byte) : (s.memWrite a b).i = s.i := rfl
@[simp] theorem State.memWrite_pc (a : Word16) (b : Byte) : (s.memWrite a b).pc = s.pc := rfl
@[simp] theorem State.memWrite_sp (a : Word16) (b : Byte) : (s.memWrite a b).sp = s.sp := rfl
@[simp] theorem State.memWrite_stack (a : Word16) (b : Byte) : (s.memWrite a b).stack = s.stack := rfl
@[simp] theorem State.memWrite_dt (a : Word16) (b : Byte) : (s.memWrite a b).dt = s.dt := rfl
@[simp] theorem State.memWrite_st (a : Word16) (b : Byte) : (s.memWrite a b).st = s.st := rfl
@[simp] theorem State.memWrite_mem (a : Word16) (b : Byte) : (s.memWrite a b).mem = Memory.write s.mem (cellOf a) b := rfl
@[simp] theorem State.memWrite_fb (a : Word16) (b : Byte) : (s.memWrite a b).fb = s.fb := rfl
@[simp] theorem State.memWrite_key (a : Word16) (b : Byte) : (s.memWrite a b).key = s.key := rfl
@[simp] theorem State.memWrite_slot (a : Word16) (b : Byte) : (s.memWrite a b).slot = s.slot := rfl
@[simp] theorem State.memWrite_diags (a : Word16) (b : Byte) : (s.memWrite a b).diags = s.diags := rfl
@[simp] theorem State.memWrite_draws (a : Word16) (b : Byte) : (s.memWrite a b).draws = s.draws := rfl
@[simp] theorem State.memWrite_agenda (a : Word16) (b : Byte) : (s.memWrite a b).agenda = s.agenda := rfl
@[simp] theorem State.memWrite_getV (a : Word16) (b : Byte) (q : RegIdx) : (s.memWrite a b).getV q = s.getV q := rfl
@[simp] theorem State.memWrite_pixel (a : Word16) (b : Byte) (px : Fin 64) (py : Fin 32) : (s.memWrite a b).pixel px py = s.pixel px py := rfl
@[simp] theorem State.memWrite_getKey (a : Word16) (b : Byte) (k : Nibble) : (s.memWrite a b).getKey k = s.getKey k := rfl

/-! ### jumpTo -/

@[simp] theorem State.jumpTo_v (t : Word16) : (s.jumpTo t).v = s.v := rfl
@[simp] theorem State.jumpTo_i (t : Word16) : (s.jumpTo t).i = s.i := rfl
@[simp] theorem State.jumpTo_pc (t : Word16) : (s.jumpTo t).pc = t := rfl
@[simp] theorem State.jumpTo_sp (t : Word16) : (s.jumpTo t).sp = s.sp := rfl
@[simp] theorem State.jumpTo_stack (t : Word16) : (s.jumpTo t).stack = s.stack := rfl
@[simp] theorem State.jumpTo_dt (t : Word16) : (s.jumpTo t).dt = s.dt := rfl
@[simp] theorem State.jumpTo_st (t : Word16) : (s.jumpTo t).st = s.st := rfl
@[simp] theorem State.jumpTo_mem (t : Word16) : (s.jumpTo t).mem = s.mem := rfl
@[simp] theorem State.jumpTo_fb (t : Word16) : (s.jumpTo t).fb = s.fb := rfl
@[simp] theorem State.jumpTo_key (t : Word16) : (s.jumpTo t).key = s.key := rfl
@[simp] theorem State.jumpTo_slot (t : Word16) : (s.jumpTo t).slot = s.slot := rfl
@[simp] theorem State.jumpTo_diags (t : Word16) : (s.jumpTo t).diags = s.diags := rfl
@[simp] theorem State.jumpTo_draws (t : Word16) : (s.jumpTo t).draws = s.draws := rfl
@[simp] theorem State.jumpTo_agenda (t : Word16) : (s.jumpTo t).agenda = s.agenda := rfl
@[simp] theorem State.jumpTo_getV (t : Word16) (q : RegIdx) : (s.jumpTo t).getV q = s.getV q := rfl
@[simp] theorem State.jumpTo_memRead (t : Word16) (ea : Word16) : (s.jumpTo t).memRead ea = s.memRead ea := rfl
@[simp] theorem State.jumpTo_pixel (t : Word16) (px : Fin 64) (py : Fin 32) : (s.jumpTo t).pixel px py = s.pixel px py := rfl
@[simp] theorem State.jumpTo_getKey (t : Word16) (k : Nibble) : (s.jumpTo t).getKey k = s.getKey k := rfl

/-! ### advance -/

@[simp] theorem State.advance_v : s.advance.v = s.v := rfl
@[simp] theorem State.advance_i : s.advance.i = s.i := rfl
@[simp] theorem State.advance_pc : s.advance.pc = s.pc + 2 := rfl
@[simp] theorem State.advance_sp : s.advance.sp = s.sp := rfl
@[simp] theorem State.advance_stack : s.advance.stack = s.stack := rfl
@[simp] theorem State.advance_dt : s.advance.dt = s.dt := rfl
@[simp] theorem State.advance_st : s.advance.st = s.st := rfl
@[simp] theorem State.advance_mem : s.advance.mem = s.mem := rfl
@[simp] theorem State.advance_fb : s.advance.fb = s.fb := rfl
@[simp] theorem State.advance_key : s.advance.key = s.key := rfl
@[simp] theorem State.advance_slot : s.advance.slot = s.slot := rfl
@[simp] theorem State.advance_diags : s.advance.diags = s.diags := rfl
@[simp] theorem State.advance_draws : s.advance.draws = s.draws := rfl
@[simp] theorem State.advance_agenda : s.advance.agenda = s.agenda := rfl
@[simp] theorem State.advance_getV (q : RegIdx) : s.advance.getV q = s.getV q := rfl
@[simp] theorem State.advance_memRead (ea : Word16) : s.advance.memRead ea = s.memRead ea := rfl
@[simp] theorem State.advance_pixel (px : Fin 64) (py : Fin 32) : s.advance.pixel px py = s.pixel px py := rfl
@[simp] theorem State.advance_getKey (k : Nibble) : s.advance.getKey k = s.getKey k := rfl

/-! ### skipIf -/

@[simp] theorem State.skipIf_v (c : Bool) : (s.skipIf c).v = s.v := rfl
@[simp] theorem State.skipIf_i (c : Bool) : (s.skipIf c).i = s.i := rfl
@[simp] theorem State.skipIf_pc (c : Bool) : (s.skipIf c).pc = if c then s.pc + 4 else s.pc + 2 := rfl
@[simp] theorem State.skipIf_sp (c : Bool) : (s.skipIf c).sp = s.sp := rfl
@[simp] theorem State.skipIf_stack (c : Bool) : (s.skipIf c).stack = s.stack := rfl
@[simp] theorem State.skipIf_dt (c : Bool) : (s.skipIf c).dt = s.dt := rfl
@[simp] theorem State.skipIf_st (c : Bool) : (s.skipIf c).st = s.st := rfl
@[simp] theorem State.skipIf_mem (c : Bool) : (s.skipIf c).mem = s.mem := rfl
@[simp] theorem State.skipIf_fb (c : Bool) : (s.skipIf c).fb = s.fb := rfl
@[simp] theorem State.skipIf_key (c : Bool) : (s.skipIf c).key = s.key := rfl
@[simp] theorem State.skipIf_slot (c : Bool) : (s.skipIf c).slot = s.slot := rfl
@[simp] theorem State.skipIf_diags (c : Bool) : (s.skipIf c).diags = s.diags := rfl
@[simp] theorem State.skipIf_draws (c : Bool) : (s.skipIf c).draws = s.draws := rfl
@[simp] theorem State.skipIf_agenda (c : Bool) : (s.skipIf c).agenda = s.agenda := rfl
@[simp] theorem State.skipIf_getV (c : Bool) (q : RegIdx) : (s.skipIf c).getV q = s.getV q := rfl
@[simp] theorem State.skipIf_memRead (c : Bool) (ea : Word16) : (s.skipIf c).memRead ea = s.memRead ea := rfl
@[simp] theorem State.skipIf_pixel (c : Bool) (px : Fin 64) (py : Fin 32) : (s.skipIf c).pixel px py = s.pixel px py := rfl
@[simp] theorem State.skipIf_getKey (c : Bool) (k : Nibble) : (s.skipIf c).getKey k = s.getKey k := rfl

/-! ### diagnose -/

@[simp] theorem State.diagnose_v (d : DiagKind) (w : Word16) : (s.diagnose d w).v = s.v := rfl
@[simp] theorem State.diagnose_i (d : DiagKind) (w : Word16) : (s.diagnose d w).i = s.i := rfl
@[simp] theorem State.diagnose_pc (d : DiagKind) (w : Word16) : (s.diagnose d w).pc = s.pc := rfl
@[simp] theorem State.diagnose_sp (d : DiagKind) (w : Word16) : (s.diagnose d w).sp = s.sp := rfl
@[simp] theorem State.diagnose_stack (d : DiagKind) (w : Word16) : (s.diagnose d w).stack = s.stack := rfl
@[simp] theorem State.diagnose_dt (d : DiagKind) (w : Word16) : (s.diagnose d w).dt = s.dt := rfl
@[simp] theorem State.diagnose_st (d : DiagKind) (w : Word16) : (s.diagnose d w).st = s.st := rfl
@[simp] theorem State.diagnose_mem (d : DiagKind) (w : Word16) : (s.diagnose d w).mem = s.mem := rfl
@[simp] theorem State.diagnose_fb (d : DiagKind) (w : Word16) : (s.diagnose d w).fb = s.fb := rfl
@[simp] theorem State.diagnose_key (d : DiagKind) (w : Word16) : (s.diagnose d w).key = s.key := rfl
@[simp] theorem State.diagnose_slot (d : DiagKind) (w : Word16) : (s.diagnose d w).slot = s.slot := rfl
@[simp] theorem State.diagnose_diags (d : DiagKind) (w : Word16) : (s.diagnose d w).diags = ⟨d, w, s.pc⟩ :: s.diags := rfl
@[simp] theorem State.diagnose_draws (d : DiagKind) (w : Word16) : (s.diagnose d w).draws = s.draws := rfl
@[simp] theorem State.diagnose_agenda (d : DiagKind) (w : Word16) : (s.diagnose d w).agenda = s.agenda := rfl
@[simp] theorem State.diagnose_getV (d : DiagKind) (w : Word16) (q : RegIdx) : (s.diagnose d w).getV q = s.getV q := rfl
@[simp] theorem State.diagnose_memRead (d : DiagKind) (w : Word16) (ea : Word16) : (s.diagnose d w).memRead ea = s.memRead ea := rfl
@[simp] theorem State.diagnose_pixel (d : DiagKind) (w : Word16) (px : Fin 64) (py : Fin 32) : (s.diagnose d w).pixel px py = s.pixel px py := rfl
@[simp] theorem State.diagnose_getKey (d : DiagKind) (w : Word16) (k : Nibble) : (s.diagnose d w).getKey k = s.getKey k := rfl
@[simp] theorem State.diagnose_fetch (d : DiagKind) (w : Word16) : (s.diagnose d w).fetch = s.fetch := rfl

/-! ### push -/

@[simp] theorem State.push_v (a : Word16) (h : s.sp.toNat < 16) : (s.push a h).v = s.v := rfl
@[simp] theorem State.push_i (a : Word16) (h : s.sp.toNat < 16) : (s.push a h).i = s.i := rfl
@[simp] theorem State.push_pc (a : Word16) (h : s.sp.toNat < 16) : (s.push a h).pc = s.pc := rfl
@[simp] theorem State.push_sp (a : Word16) (h : s.sp.toNat < 16) : (s.push a h).sp = s.sp + 1 := rfl
@[simp] theorem State.push_stack (a : Word16) (h : s.sp.toNat < 16) : (s.push a h).stack = s.stack.set s.sp.toNat a h := rfl
@[simp] theorem State.push_dt (a : Word16) (h : s.sp.toNat < 16) : (s.push a h).dt = s.dt := rfl
@[simp] theorem State.push_st (a : Word16) (h : s.sp.toNat < 16) : (s.push a h).st = s.st := rfl
@[simp] theorem State.push_mem (a : Word16) (h : s.sp.toNat < 16) : (s.push a h).mem = s.mem := rfl
@[simp] theorem State.push_fb (a : Word16) (h : s.sp.toNat < 16) : (s.push a h).fb = s.fb := rfl
@[simp] theorem State.push_key (a : Word16) (h : s.sp.toNat < 16) : (s.push a h).key = s.key := rfl
@[simp] theorem State.push_slot (a : Word16) (h : s.sp.toNat < 16) : (s.push a h).slot = s.slot := rfl
@[simp] theorem State.push_diags (a : Word16) (h : s.sp.toNat < 16) : (s.push a h).diags = s.diags := rfl
@[simp] theorem State.push_draws (a : Word16) (h : s.sp.toNat < 16) : (s.push a h).draws = s.draws := rfl
@[simp] theorem State.push_agenda (a : Word16) (h : s.sp.toNat < 16) : (s.push a h).agenda = s.agenda := rfl
@[simp] theorem State.push_getV (a : Word16) (h : s.sp.toNat < 16) (q : RegIdx) : (s.push a h).getV q = s.getV q := rfl
@[simp] theorem State.push_memRead (a : Word16) (h : s.sp.toNat < 16) (ea : Word16) : (s.push a h).memRead ea = s.memRead ea := rfl
@[simp] theorem State.push_pixel (a : Word16) (h : s.sp.toNat < 16) (px : Fin 64) (py : Fin 32) : (s.push a h).pixel px py = s.pixel px py := rfl
@[simp] theorem State.push_getKey (a : Word16) (h : s.sp.toNat < 16) (k : Nibble) : (s.push a h).getKey k = s.getKey k := rfl
@[simp] theorem State.push_fetch (a : Word16) (h : s.sp.toNat < 16) : (s.push a h).fetch = s.fetch := rfl

/-! ### drop -/

@[simp] theorem State.drop_v : s.drop.v = s.v := rfl
@[simp] theorem State.drop_i : s.drop.i = s.i := rfl
@[simp] theorem State.drop_pc : s.drop.pc = s.pc := rfl
@[simp] theorem State.drop_sp : s.drop.sp = s.sp - 1 := rfl
@[simp] theorem State.drop_stack : s.drop.stack = s.stack := rfl
@[simp] theorem State.drop_dt : s.drop.dt = s.dt := rfl
@[simp] theorem State.drop_st : s.drop.st = s.st := rfl
@[simp] theorem State.drop_mem : s.drop.mem = s.mem := rfl
@[simp] theorem State.drop_fb : s.drop.fb = s.fb := rfl
@[simp] theorem State.drop_key : s.drop.key = s.key := rfl
@[simp] theorem State.drop_slot : s.drop.slot = s.slot := rfl
@[simp] theorem State.drop_diags : s.drop.diags = s.diags := rfl
@[simp] theorem State.drop_draws : s.drop.draws = s.draws := rfl
@[simp] theorem State.drop_agenda : s.drop.agenda = s.agenda := rfl
@[simp] theorem State.drop_getV (q : RegIdx) : s.drop.getV q = s.getV q := rfl
@[simp] theorem State.drop_memRead (ea : Word16) : s.drop.memRead ea = s.memRead ea := rfl
@[simp] theorem State.drop_pixel (px : Fin 64) (py : Fin 32) : s.drop.pixel px py = s.pixel px py := rfl
@[simp] theorem State.drop_getKey (k : Nibble) : s.drop.getKey k = s.getKey k := rfl
@[simp] theorem State.drop_fetch : s.drop.fetch = s.fetch := rfl

/-! ### setSlot -/

@[simp] theorem State.setSlot_v (j : Nibble) : (s.setSlot j).v = s.v := rfl
@[simp] theorem State.setSlot_i (j : Nibble) : (s.setSlot j).i = s.i := rfl
@[simp] theorem State.setSlot_pc (j : Nibble) : (s.setSlot j).pc = s.pc := rfl
@[simp] theorem State.setSlot_sp (j : Nibble) : (s.setSlot j).sp = s.sp := rfl
@[simp] theorem State.setSlot_stack (j : Nibble) : (s.setSlot j).stack = s.stack := rfl
@[simp] theorem State.setSlot_dt (j : Nibble) : (s.setSlot j).dt = s.dt := rfl
@[simp] theorem State.setSlot_st (j : Nibble) : (s.setSlot j).st = s.st := rfl
@[simp] theorem State.setSlot_mem (j : Nibble) : (s.setSlot j).mem = s.mem := rfl
@[simp] theorem State.setSlot_fb (j : Nibble) : (s.setSlot j).fb = s.fb := rfl
@[simp] theorem State.setSlot_key (j : Nibble) : (s.setSlot j).key = s.key := rfl
@[simp] theorem State.setSlot_slot (j : Nibble) : (s.setSlot j).slot = some j := rfl
@[simp] theorem State.setSlot_diags (j : Nibble) : (s.setSlot j).diags = s.diags := rfl
@[simp] theorem State.setSlot_draws (j : Nibble) : (s.setSlot j).draws = s.draws := rfl
@[simp] theorem State.setSlot_agenda (j : Nibble) : (s.setSlot j).agenda = s.agenda := rfl
@[simp] theorem State.setSlot_getV (j : Nibble) (q : RegIdx) : (s.setSlot j).getV q = s.getV q := rfl
@[simp] theorem State.setSlot_memRead (j : Nibble) (ea : Word16) : (s.setSlot j).memRead ea = s.memRead ea := rfl
@[simp] theorem State.setSlot_pixel (j : Nibble) (px : Fin 64) (py : Fin 32) : (s.setSlot j).pixel px py = s.pixel px py := rfl
@[simp] theorem State.setSlot_getKey (j : Nibble) (k : Nibble) : (s.setSlot j).getKey k = s.getKey k := rfl
@[simp] theorem State.setSlot_fetch (j : Nibble) : (s.setSlot j).fetch = s.fetch := rfl

/-! ### clearSlot -/

@[simp] theorem State.clearSlot_v : s.clearSlot.v = s.v := rfl
@[simp] theorem State.clearSlot_i : s.clearSlot.i = s.i := rfl
@[simp] theorem State.clearSlot_pc : s.clearSlot.pc = s.pc := rfl
@[simp] theorem State.clearSlot_sp : s.clearSlot.sp = s.sp := rfl
@[simp] theorem State.clearSlot_stack : s.clearSlot.stack = s.stack := rfl
@[simp] theorem State.clearSlot_dt : s.clearSlot.dt = s.dt := rfl
@[simp] theorem State.clearSlot_st : s.clearSlot.st = s.st := rfl
@[simp] theorem State.clearSlot_mem : s.clearSlot.mem = s.mem := rfl
@[simp] theorem State.clearSlot_fb : s.clearSlot.fb = s.fb := rfl
@[simp] theorem State.clearSlot_key : s.clearSlot.key = s.key := rfl
@[simp] theorem State.clearSlot_slot : s.clearSlot.slot = none := rfl
@[simp] theorem State.clearSlot_diags : s.clearSlot.diags = s.diags := rfl
@[simp] theorem State.clearSlot_draws : s.clearSlot.draws = s.draws := rfl
@[simp] theorem State.clearSlot_agenda : s.clearSlot.agenda = s.agenda := rfl
@[simp] theorem State.clearSlot_getV (q : RegIdx) : s.clearSlot.getV q = s.getV q := rfl
@[simp] theorem State.clearSlot_memRead (ea : Word16) : s.clearSlot.memRead ea = s.memRead ea := rfl
@[simp] theorem State.clearSlot_pixel (px : Fin 64) (py : Fin 32) : s.clearSlot.pixel px py = s.pixel px py := rfl
@[simp] theorem State.clearSlot_getKey (k : Nibble) : s.clearSlot.getKey k = s.getKey k := rfl
@[simp] theorem State.clearSlot_fetch : s.clearSlot.fetch = s.fetch := rfl

/-! ### setKey -/

@[simp] theorem State.setKey_v (j : Nibble) (b : Bool) : (s.setKey j b).v = s.v := rfl
@[simp] theorem State.setKey_i (j : Nibble) (b : Bool) : (s.setKey j b).i = s.i := rfl
@[simp] theorem State.setKey_pc (j : Nibble) (b : Bool) : (s.setKey j b).pc = s.pc := rfl
@[simp] theorem State.setKey_sp (j : Nibble) (b : Bool) : (s.setKey j b).sp = s.sp := rfl
@[simp] theorem State.setKey_stack (j : Nibble) (b : Bool) : (s.setKey j b).stack = s.stack := rfl
@[simp] theorem State.setKey_dt (j : Nibble) (b : Bool) : (s.setKey j b).dt = s.dt := rfl
@[simp] theorem State.setKey_st (j : Nibble) (b : Bool) : (s.setKey j b).st = s.st := rfl
@[simp] theorem State.setKey_mem (j : Nibble) (b : Bool) : (s.setKey j b).mem = s.mem := rfl
@[simp] theorem State.setKey_fb (j : Nibble) (b : Bool) : (s.setKey j b).fb = s.fb := rfl
@[simp] theorem State.setKey_key (j : Nibble) (b : Bool) : (s.setKey j b).key = s.key.set j.toNat b j.isLt := rfl
@[simp] theorem State.setKey_slot (j : Nibble) (b : Bool) : (s.setKey j b).slot = s.slot := rfl
@[simp] theorem State.setKey_diags (j : Nibble) (b : Bool) : (s.setKey j b).diags = s.diags := rfl
@[simp] theorem State.setKey_draws (j : Nibble) (b : Bool) : (s.setKey j b).draws = s.draws := rfl
@[simp] theorem State.setKey_agenda (j : Nibble) (b : Bool) : (s.setKey j b).agenda = s.agenda := rfl
@[simp] theorem State.setKey_getV (j : Nibble) (b : Bool) (q : RegIdx) : (s.setKey j b).getV q = s.getV q := rfl
@[simp] theorem State.setKey_memRead (j : Nibble) (b : Bool) (ea : Word16) : (s.setKey j b).memRead ea = s.memRead ea := rfl
@[simp] theorem State.setKey_pixel (j : Nibble) (b : Bool) (px : Fin 64) (py : Fin 32) : (s.setKey j b).pixel px py = s.pixel px py := rfl
@[simp] theorem State.setKey_fetch (j : Nibble) (b : Bool) : (s.setKey j b).fetch = s.fetch := rfl

/-! ### setFb -/

@[simp] theorem State.setFb_v (fb : Framebuffer) : (s.setFb fb).v = s.v := rfl
@[simp] theorem State.setFb_i (fb : Framebuffer) : (s.setFb fb).i = s.i := rfl
@[simp] theorem State.setFb_pc (fb : Framebuffer) : (s.setFb fb).pc = s.pc := rfl
@[simp] theorem State.setFb_sp (fb : Framebuffer) : (s.setFb fb).sp = s.sp := rfl
@[simp] theorem State.setFb_stack (fb : Framebuffer) : (s.setFb fb).stack = s.stack := rfl
@[simp] theorem State.setFb_dt (fb : Framebuffer) : (s.setFb fb).dt = s.dt := rfl
@[simp] theorem State.setFb_st (fb : Framebuffer) : (s.setFb fb).st = s.st := rfl
@[simp] theorem State.setFb_mem (fb : Framebuffer) : (s.setFb fb).mem = s.mem := rfl
@[simp] theorem State.setFb_fb (fb : Framebuffer) : (s.setFb fb).fb = fb := rfl
@[simp] theorem State.setFb_key (fb : Framebuffer) : (s.setFb fb).key = s.key := rfl
@[simp] theorem State.setFb_slot (fb : Framebuffer) : (s.setFb fb).slot = s.slot := rfl
@[simp] theorem State.setFb_diags (fb : Framebuffer) : (s.setFb fb).diags = s.diags := rfl
@[simp] theorem State.setFb_draws (fb : Framebuffer) : (s.setFb fb).draws = s.draws := rfl
@[simp] theorem State.setFb_agenda (fb : Framebuffer) : (s.setFb fb).agenda = s.agenda := rfl
@[simp] theorem State.setFb_getV (fb : Framebuffer) (q : RegIdx) : (s.setFb fb).getV q = s.getV q := rfl
@[simp] theorem State.setFb_memRead (fb : Framebuffer) (ea : Word16) : (s.setFb fb).memRead ea = s.memRead ea := rfl
@[simp] theorem State.setFb_getKey (fb : Framebuffer) (k : Nibble) : (s.setFb fb).getKey k = s.getKey k := rfl
@[simp] theorem State.setFb_fetch (fb : Framebuffer) : (s.setFb fb).fetch = s.fetch := rfl

/-! ### consumeRand -/

@[simp] theorem State.consumeRand_v : s.consumeRand.v = s.v := rfl
@[simp] theorem State.consumeRand_i : s.consumeRand.i = s.i := rfl
@[simp] theorem State.consumeRand_pc : s.consumeRand.pc = s.pc := rfl
@[simp] theorem State.consumeRand_sp : s.consumeRand.sp = s.sp := rfl
@[simp] theorem State.consumeRand_stack : s.consumeRand.stack = s.stack := rfl
@[simp] theorem State.consumeRand_dt : s.consumeRand.dt = s.dt := rfl
@[simp] theorem State.consumeRand_st : s.consumeRand.st = s.st := rfl
@[simp] theorem State.consumeRand_mem : s.consumeRand.mem = s.mem := rfl
@[simp] theorem State.consumeRand_fb : s.consumeRand.fb = s.fb := rfl
@[simp] theorem State.consumeRand_key : s.consumeRand.key = s.key := rfl
@[simp] theorem State.consumeRand_slot : s.consumeRand.slot = s.slot := rfl
@[simp] theorem State.consumeRand_diags : s.consumeRand.diags = s.diags := rfl
@[simp] theorem State.consumeRand_draws : s.consumeRand.draws = s.draws + 1 := rfl
@[simp] theorem State.consumeRand_agenda : s.consumeRand.agenda = s.agenda := rfl
@[simp] theorem State.consumeRand_getV (q : RegIdx) : s.consumeRand.getV q = s.getV q := rfl
@[simp] theorem State.consumeRand_memRead (ea : Word16) : s.consumeRand.memRead ea = s.memRead ea := rfl
@[simp] theorem State.consumeRand_pixel (px : Fin 64) (py : Fin 32) : s.consumeRand.pixel px py = s.pixel px py := rfl
@[simp] theorem State.consumeRand_getKey (k : Nibble) : s.consumeRand.getKey k = s.getKey k := rfl
@[simp] theorem State.consumeRand_fetch : s.consumeRand.fetch = s.fetch := rfl

/-! ### setAgenda -/

@[simp] theorem State.setAgenda_v (es : List Event) : (s.setAgenda es).v = s.v := rfl
@[simp] theorem State.setAgenda_i (es : List Event) : (s.setAgenda es).i = s.i := rfl
@[simp] theorem State.setAgenda_pc (es : List Event) : (s.setAgenda es).pc = s.pc := rfl
@[simp] theorem State.setAgenda_sp (es : List Event) : (s.setAgenda es).sp = s.sp := rfl
@[simp] theorem State.setAgenda_stack (es : List Event) : (s.setAgenda es).stack = s.stack := rfl
@[simp] theorem State.setAgenda_dt (es : List Event) : (s.setAgenda es).dt = s.dt := rfl
@[simp] theorem State.setAgenda_st (es : List Event) : (s.setAgenda es).st = s.st := rfl
@[simp] theorem State.setAgenda_mem (es : List Event) : (s.setAgenda es).mem = s.mem := rfl
@[simp] theorem State.setAgenda_fb (es : List Event) : (s.setAgenda es).fb = s.fb := rfl
@[simp] theorem State.setAgenda_key (es : List Event) : (s.setAgenda es).key = s.key := rfl
@[simp] theorem State.setAgenda_slot (es : List Event) : (s.setAgenda es).slot = s.slot := rfl
@[simp] theorem State.setAgenda_diags (es : List Event) : (s.setAgenda es).diags = s.diags := rfl
@[simp] theorem State.setAgenda_draws (es : List Event) : (s.setAgenda es).draws = s.draws := rfl
@[simp] theorem State.setAgenda_agenda (es : List Event) : (s.setAgenda es).agenda = es := rfl
@[simp] theorem State.setAgenda_getV (es : List Event) (q : RegIdx) : (s.setAgenda es).getV q = s.getV q := rfl
@[simp] theorem State.setAgenda_memRead (es : List Event) (ea : Word16) : (s.setAgenda es).memRead ea = s.memRead ea := rfl
@[simp] theorem State.setAgenda_pixel (es : List Event) (px : Fin 64) (py : Fin 32) : (s.setAgenda es).pixel px py = s.pixel px py := rfl
@[simp] theorem State.setAgenda_getKey (es : List Event) (k : Nibble) : (s.setAgenda es).getKey k = s.getKey k := rfl
@[simp] theorem State.setAgenda_fetch (es : List Event) : (s.setAgenda es).fetch = s.fetch := rfl

/-! ### offer -/

@[simp] theorem State.offer_v (e : Event) : (s.offer e).v = s.v := rfl
@[simp] theorem State.offer_i (e : Event) : (s.offer e).i = s.i := rfl
@[simp] theorem State.offer_pc (e : Event) : (s.offer e).pc = s.pc := rfl
@[simp] theorem State.offer_sp (e : Event) : (s.offer e).sp = s.sp := rfl
@[simp] theorem State.offer_stack (e : Event) : (s.offer e).stack = s.stack := rfl
@[simp] theorem State.offer_dt (e : Event) : (s.offer e).dt = s.dt := rfl
@[simp] theorem State.offer_st (e : Event) : (s.offer e).st = s.st := rfl
@[simp] theorem State.offer_mem (e : Event) : (s.offer e).mem = s.mem := rfl
@[simp] theorem State.offer_fb (e : Event) : (s.offer e).fb = s.fb := rfl
@[simp] theorem State.offer_key (e : Event) : (s.offer e).key = s.key := rfl
@[simp] theorem State.offer_slot (e : Event) : (s.offer e).slot = s.slot := rfl
@[simp] theorem State.offer_diags (e : Event) : (s.offer e).diags = s.diags := rfl
@[simp] theorem State.offer_draws (e : Event) : (s.offer e).draws = s.draws := rfl
@[simp] theorem State.offer_agenda (e : Event) : (s.offer e).agenda = e :: s.agenda := rfl
@[simp] theorem State.offer_getV (e : Event) (q : RegIdx) : (s.offer e).getV q = s.getV q := rfl
@[simp] theorem State.offer_memRead (e : Event) (ea : Word16) : (s.offer e).memRead ea = s.memRead ea := rfl
@[simp] theorem State.offer_pixel (e : Event) (px : Fin 64) (py : Fin 32) : (s.offer e).pixel px py = s.pixel px py := rfl
@[simp] theorem State.offer_getKey (e : Event) (k : Nibble) : (s.offer e).getKey k = s.getKey k := rfl
@[simp] theorem State.offer_fetch (e : Event) : (s.offer e).fetch = s.fetch := rfl

/-! ### tick -/

@[simp] theorem State.tick_v : s.tick.v = s.v := rfl
@[simp] theorem State.tick_i : s.tick.i = s.i := rfl
@[simp] theorem State.tick_pc : s.tick.pc = s.pc := rfl
@[simp] theorem State.tick_sp : s.tick.sp = s.sp := rfl
@[simp] theorem State.tick_stack : s.tick.stack = s.stack := rfl
@[simp] theorem State.tick_dt : s.tick.dt = countDown s.dt := rfl
@[simp] theorem State.tick_st : s.tick.st = countDown s.st := rfl
@[simp] theorem State.tick_mem : s.tick.mem = s.mem := rfl
@[simp] theorem State.tick_fb : s.tick.fb = s.fb := rfl
@[simp] theorem State.tick_key : s.tick.key = s.key := rfl
@[simp] theorem State.tick_slot : s.tick.slot = s.slot := rfl
@[simp] theorem State.tick_diags : s.tick.diags = s.diags := rfl
@[simp] theorem State.tick_draws : s.tick.draws = s.draws := rfl
@[simp] theorem State.tick_agenda : s.tick.agenda = s.agenda := rfl
@[simp] theorem State.tick_getV (q : RegIdx) : s.tick.getV q = s.getV q := rfl
@[simp] theorem State.tick_memRead (ea : Word16) : s.tick.memRead ea = s.memRead ea := rfl
@[simp] theorem State.tick_pixel (px : Fin 64) (py : Fin 32) : s.tick.pixel px py = s.pixel px py := rfl
@[simp] theorem State.tick_getKey (k : Nibble) : s.tick.getKey k = s.getKey k := rfl
@[simp] theorem State.tick_fetch : s.tick.fetch = s.fetch := rfl

/-! ### memWriteBytes -/

@[simp] theorem State.memWriteBytes_v (a : Word16) (bs : List Byte) : (s.memWriteBytes a bs).v = s.v := by
  induction bs generalizing s a <;> simp_all [State.memWriteBytes]
@[simp] theorem State.memWriteBytes_i (a : Word16) (bs : List Byte) : (s.memWriteBytes a bs).i = s.i := by
  induction bs generalizing s a <;> simp_all [State.memWriteBytes]
@[simp] theorem State.memWriteBytes_pc (a : Word16) (bs : List Byte) : (s.memWriteBytes a bs).pc = s.pc := by
  induction bs generalizing s a <;> simp_all [State.memWriteBytes]
@[simp] theorem State.memWriteBytes_sp (a : Word16) (bs : List Byte) : (s.memWriteBytes a bs).sp = s.sp := by
  induction bs generalizing s a <;> simp_all [State.memWriteBytes]
@[simp] theorem State.memWriteBytes_stack (a : Word16) (bs : List Byte) : (s.memWriteBytes a bs).stack = s.stack := by
  induction bs generalizing s a <;> simp_all [State.memWriteBytes]
@[simp] theorem State.memWriteBytes_dt (a : Word16) (bs : List Byte) : (s.memWriteBytes a bs).dt = s.dt := by
  induction bs generalizing s a <;> simp_all [State.memWriteBytes]
@[simp] theorem State.memWriteBytes_st (a : Word16) (bs : List Byte) : (s.memWriteBytes a bs).st = s.st := by
  induction bs generalizing s a <;> simp_all [State.memWriteBytes]
@[simp] theorem State.memWriteBytes_fb (a : Word16) (bs : List Byte) : (s.memWriteBytes a bs).fb = s.fb := by
  induction bs generalizing s a <;> simp_all [State.memWriteBytes]
@[simp] theorem State.memWriteBytes_key (a : Word16) (bs : List Byte) : (s.memWriteBytes a bs).key = s.key := by
  induction bs generalizing s a <;> simp_all [State.memWriteBytes]
@[simp] theorem State.memWriteBytes_slot (a : Word16) (bs : List Byte) : (s.memWriteBytes a bs).slot = s.slot := by
  induction bs generalizing s a <;> simp_all [State.memWriteBytes]
@[simp] theorem State.memWriteBytes_diags (a : Word16) (bs : List Byte) : (s.memWriteBytes a bs).diags = s.diags := by
  induction bs generalizing s a <;> simp_all [State.memWriteBytes]
@[simp] theorem State.memWriteBytes_draws (a : Word16) (bs : List Byte) : (s.memWriteBytes a bs).draws = s.draws := by
  induction bs generalizing s a <;> simp_all [State.memWriteBytes]
@[simp] theorem State.memWriteBytes_agenda (a : Word16) (bs : List Byte) : (s.memWriteBytes a bs).agenda = s.agenda := by
  induction bs generalizing s a <;> simp_all [State.memWriteBytes]
@[simp] theorem State.memWriteBytes_getV (a : Word16) (bs : List Byte) (q : RegIdx) : (s.memWriteBytes a bs).getV q = s.getV q := by
  simp [State.getV]
@[simp] theorem State.memWriteBytes_pixel (a : Word16) (bs : List Byte) (px : Fin 64) (py : Fin 32) : (s.memWriteBytes a bs).pixel px py = s.pixel px py := by
  simp [State.pixel, Framebuffer.get]
@[simp] theorem State.memWriteBytes_getKey (a : Word16) (bs : List Byte) (k : Nibble) : (s.memWriteBytes a bs).getKey k = s.getKey k := by
  simp [State.getKey]

/-! ### loadBytes -/

@[simp] theorem State.loadBytes_v (ls : List LoadByte) : (s.loadBytes ls).v = s.v := by
  induction ls generalizing s <;> simp_all [State.loadBytes]
@[simp] theorem State.loadBytes_i (ls : List LoadByte) : (s.loadBytes ls).i = s.i := by
  induction ls generalizing s <;> simp_all [State.loadBytes]
@[simp] theorem State.loadBytes_pc (ls : List LoadByte) : (s.loadBytes ls).pc = s.pc := by
  induction ls generalizing s <;> simp_all [State.loadBytes]
@[simp] theorem State.loadBytes_sp (ls : List LoadByte) : (s.loadBytes ls).sp = s.sp := by
  induction ls generalizing s <;> simp_all [State.loadBytes]
@[simp] theorem State.loadBytes_stack (ls : List LoadByte) : (s.loadBytes ls).stack = s.stack := by
  induction ls generalizing s <;> simp_all [State.loadBytes]
@[simp] theorem State.loadBytes_dt (ls : List LoadByte) : (s.loadBytes ls).dt = s.dt := by
  induction ls generalizing s <;> simp_all [State.loadBytes]
@[simp] theorem State.loadBytes_st (ls : List LoadByte) : (s.loadBytes ls).st = s.st := by
  induction ls generalizing s <;> simp_all [State.loadBytes]
@[simp] theorem State.loadBytes_fb (ls : List LoadByte) : (s.loadBytes ls).fb = s.fb := by
  induction ls generalizing s <;> simp_all [State.loadBytes]
@[simp] theorem State.loadBytes_key (ls : List LoadByte) : (s.loadBytes ls).key = s.key := by
  induction ls generalizing s <;> simp_all [State.loadBytes]
@[simp] theorem State.loadBytes_slot (ls : List LoadByte) : (s.loadBytes ls).slot = s.slot := by
  induction ls generalizing s <;> simp_all [State.loadBytes]
@[simp] theorem State.loadBytes_diags (ls : List LoadByte) : (s.loadBytes ls).diags = s.diags := by
  induction ls generalizing s <;> simp_all [State.loadBytes]
@[simp] theorem State.loadBytes_draws (ls : List LoadByte) : (s.loadBytes ls).draws = s.draws := by
  induction ls generalizing s <;> simp_all [State.loadBytes]
@[simp] theorem State.loadBytes_agenda (ls : List LoadByte) : (s.loadBytes ls).agenda = s.agenda := by
  induction ls generalizing s <;> simp_all [State.loadBytes]
@[simp] theorem State.loadBytes_getV (ls : List LoadByte) (q : RegIdx) : (s.loadBytes ls).getV q = s.getV q := by
  simp [State.getV]
@[simp] theorem State.loadBytes_pixel (ls : List LoadByte) (px : Fin 64) (py : Fin 32) : (s.loadBytes ls).pixel px py = s.pixel px py := by
  simp [State.pixel, Framebuffer.get]
@[simp] theorem State.loadBytes_getKey (ls : List LoadByte) (k : Nibble) : (s.loadBytes ls).getKey k = s.getKey k := by
  simp [State.getKey]

/-! ### setResultFlag -/

@[simp] theorem State.setResultFlag_i (o : VfWriteOrder) (r : RegIdx) (b : Byte) (c : Bool) : (s.setResultFlag o r b c).i = s.i := by cases o <;> rfl
@[simp] theorem State.setResultFlag_pc (o : VfWriteOrder) (r : RegIdx) (b : Byte) (c : Bool) : (s.setResultFlag o r b c).pc = s.pc := by cases o <;> rfl
@[simp] theorem State.setResultFlag_sp (o : VfWriteOrder) (r : RegIdx) (b : Byte) (c : Bool) : (s.setResultFlag o r b c).sp = s.sp := by cases o <;> rfl
@[simp] theorem State.setResultFlag_stack (o : VfWriteOrder) (r : RegIdx) (b : Byte) (c : Bool) : (s.setResultFlag o r b c).stack = s.stack := by cases o <;> rfl
@[simp] theorem State.setResultFlag_dt (o : VfWriteOrder) (r : RegIdx) (b : Byte) (c : Bool) : (s.setResultFlag o r b c).dt = s.dt := by cases o <;> rfl
@[simp] theorem State.setResultFlag_st (o : VfWriteOrder) (r : RegIdx) (b : Byte) (c : Bool) : (s.setResultFlag o r b c).st = s.st := by cases o <;> rfl
@[simp] theorem State.setResultFlag_mem (o : VfWriteOrder) (r : RegIdx) (b : Byte) (c : Bool) : (s.setResultFlag o r b c).mem = s.mem := by cases o <;> rfl
@[simp] theorem State.setResultFlag_fb (o : VfWriteOrder) (r : RegIdx) (b : Byte) (c : Bool) : (s.setResultFlag o r b c).fb = s.fb := by cases o <;> rfl
@[simp] theorem State.setResultFlag_key (o : VfWriteOrder) (r : RegIdx) (b : Byte) (c : Bool) : (s.setResultFlag o r b c).key = s.key := by cases o <;> rfl
@[simp] theorem State.setResultFlag_slot (o : VfWriteOrder) (r : RegIdx) (b : Byte) (c : Bool) : (s.setResultFlag o r b c).slot = s.slot := by cases o <;> rfl
@[simp] theorem State.setResultFlag_diags (o : VfWriteOrder) (r : RegIdx) (b : Byte) (c : Bool) : (s.setResultFlag o r b c).diags = s.diags := by cases o <;> rfl
@[simp] theorem State.setResultFlag_draws (o : VfWriteOrder) (r : RegIdx) (b : Byte) (c : Bool) : (s.setResultFlag o r b c).draws = s.draws := by cases o <;> rfl
@[simp] theorem State.setResultFlag_agenda (o : VfWriteOrder) (r : RegIdx) (b : Byte) (c : Bool) : (s.setResultFlag o r b c).agenda = s.agenda := by cases o <;> rfl
@[simp] theorem State.setResultFlag_memRead (o : VfWriteOrder) (r : RegIdx) (b : Byte) (c : Bool) (ea : Word16) : (s.setResultFlag o r b c).memRead ea = s.memRead ea := by cases o <;> rfl
@[simp] theorem State.setResultFlag_pixel (o : VfWriteOrder) (r : RegIdx) (b : Byte) (c : Bool) (px : Fin 64) (py : Fin 32) : (s.setResultFlag o r b c).pixel px py = s.pixel px py := by cases o <;> rfl
@[simp] theorem State.setResultFlag_getKey (o : VfWriteOrder) (r : RegIdx) (b : Byte) (c : Bool) (k : Nibble) : (s.setResultFlag o r b c).getKey k = s.getKey k := by cases o <;> rfl

/-! ### checkKeyIndex -/

@[simp] theorem State.checkKeyIndex_v (p : KeyIndexPolicy) (b : Byte) (w : Word16) : (s.checkKeyIndex p b w).v = s.v := by
  unfold State.checkKeyIndex; split <;> rfl
@[simp] theorem State.checkKeyIndex_i (p : KeyIndexPolicy) (b : Byte) (w : Word16) : (s.checkKeyIndex p b w).i = s.i := by
  unfold State.checkKeyIndex; split <;> rfl
@[simp] theorem State.checkKeyIndex_pc (p : KeyIndexPolicy) (b : Byte) (w : Word16) : (s.checkKeyIndex p b w).pc = s.pc := by
  unfold State.checkKeyIndex; split <;> rfl
@[simp] theorem State.checkKeyIndex_sp (p : KeyIndexPolicy) (b : Byte) (w : Word16) : (s.checkKeyIndex p b w).sp = s.sp := by
  unfold State.checkKeyIndex; split <;> rfl
@[simp] theorem State.checkKeyIndex_stack (p : KeyIndexPolicy) (b : Byte) (w : Word16) : (s.checkKeyIndex p b w).stack = s.stack := by
  unfold State.checkKeyIndex; split <;> rfl
@[simp] theorem State.checkKeyIndex_dt (p : KeyIndexPolicy) (b : Byte) (w : Word16) : (s.checkKeyIndex p b w).dt = s.dt := by
  unfold State.checkKeyIndex; split <;> rfl
@[simp] theorem State.checkKeyIndex_st (p : KeyIndexPolicy) (b : Byte) (w : Word16) : (s.checkKeyIndex p b w).st = s.st := by
  unfold State.checkKeyIndex; split <;> rfl
@[simp] theorem State.checkKeyIndex_mem (p : KeyIndexPolicy) (b : Byte) (w : Word16) : (s.checkKeyIndex p b w).mem = s.mem := by
  unfold State.checkKeyIndex; split <;> rfl
@[simp] theorem State.checkKeyIndex_fb (p : KeyIndexPolicy) (b : Byte) (w : Word16) : (s.checkKeyIndex p b w).fb = s.fb := by
  unfold State.checkKeyIndex; split <;> rfl
@[simp] theorem State.checkKeyIndex_key (p : KeyIndexPolicy) (b : Byte) (w : Word16) : (s.checkKeyIndex p b w).key = s.key := by
  unfold State.checkKeyIndex; split <;> rfl
@[simp] theorem State.checkKeyIndex_slot (p : KeyIndexPolicy) (b : Byte) (w : Word16) : (s.checkKeyIndex p b w).slot = s.slot := by
  unfold State.checkKeyIndex; split <;> rfl
@[simp] theorem State.checkKeyIndex_draws (p : KeyIndexPolicy) (b : Byte) (w : Word16) : (s.checkKeyIndex p b w).draws = s.draws := by
  unfold State.checkKeyIndex; split <;> rfl
@[simp] theorem State.checkKeyIndex_agenda (p : KeyIndexPolicy) (b : Byte) (w : Word16) : (s.checkKeyIndex p b w).agenda = s.agenda := by
  unfold State.checkKeyIndex; split <;> rfl
@[simp] theorem State.checkKeyIndex_getV (p : KeyIndexPolicy) (b : Byte) (w : Word16) (q : RegIdx) : (s.checkKeyIndex p b w).getV q = s.getV q := by
  unfold State.checkKeyIndex; split <;> rfl
@[simp] theorem State.checkKeyIndex_memRead (p : KeyIndexPolicy) (b : Byte) (w : Word16) (ea : Word16) : (s.checkKeyIndex p b w).memRead ea = s.memRead ea := by
  unfold State.checkKeyIndex; split <;> rfl
@[simp] theorem State.checkKeyIndex_pixel (p : KeyIndexPolicy) (b : Byte) (w : Word16) (px : Fin 64) (py : Fin 32) : (s.checkKeyIndex p b w).pixel px py = s.pixel px py := by
  unfold State.checkKeyIndex; split <;> rfl
@[simp] theorem State.checkKeyIndex_getKey (p : KeyIndexPolicy) (b : Byte) (w : Word16) (k : Nibble) : (s.checkKeyIndex p b w).getKey k = s.getKey k := by
  unfold State.checkKeyIndex; split <;> rfl

/-! ### What a written location reads as -/

theorem toNat_eq_iff (q r : RegIdx) : q.toNat = r.toNat ↔ q = r := BitVec.toNat_inj

theorem State.getV_setV (r q : RegIdx) (b : Byte) : (s.setV r b).getV q = if q = r then b else s.getV q := by
  simp only [State.getV, State.setV, Vector.getElem_set, toNat_eq_iff, eq_comm]

@[simp] theorem State.getV_setV_same (r : RegIdx) (b : Byte) : (s.setV r b).getV r = b := by
  simp [State.getV_setV]

theorem State.getV_setV_of_ne {r q : RegIdx} (h : q ≠ r) (b : Byte) : (s.setV r b).getV q = s.getV q := by
  simp [State.getV_setV, h]

theorem State.getV_setFlag (q : RegIdx) (c : Bool) :
    (s.setFlag c).getV q = if q = VF then flagByte c else s.getV q := State.getV_setV s VF q _

@[simp] theorem State.getV_setFlag_same (c : Bool) : (s.setFlag c).getV VF = flagByte c :=
  State.getV_setV_same s VF _

theorem getElem_loadRegFile (v : Vector Byte 16) (k : Nat) (bs : List Byte) (j : Nat) (hj : j < 16) :
    (loadRegFile v k bs)[j] = if h : k ≤ j ∧ j - k < bs.length then bs[j - k] else v[j] := by
  induction bs generalizing v k with
  | nil => simp [loadRegFile]
  | cons b bs ih =>
    rw [loadRegFile, ih]
    rcases Nat.lt_trichotomy j k with h | h | h
    · rw [dif_neg (by omega), dif_neg (by omega), Vector.getElem_setIfInBounds_ne (by omega) (by omega)]
    · subst h
      rw [dif_neg (by omega), dif_pos (by simp)]
      simp
    · have e : j - k = (j - (k + 1)) + 1 := by omega
      by_cases hl : j - (k + 1) < bs.length
      · rw [dif_pos (by omega), dif_pos (by simp; omega)]
        simp only [e, List.getElem_cons_succ]
      · rw [dif_neg (by omega), dif_neg (by simp; omega), Vector.getElem_setIfInBounds_ne (by omega) (by omega)]

theorem State.getV_loadV (bs : List Byte) (q : RegIdx) :
    (s.loadV bs).getV q = if h : q.toNat < bs.length then bs[q.toNat] else s.getV q := by
  simp only [State.getV, State.loadV, getElem_loadRegFile]
  simp

theorem State.getKey_setKey (j k : Nibble) (b : Bool) :
    (s.setKey j b).getKey k = if k = j then b else s.getKey k := by
  simp only [State.getKey, State.setKey, Vector.getElem_set, toNat_eq_iff, eq_comm]

/-- The result register and VF after a flag-writing instruction: VF holds the flag, whatever the result register is
(40_step_and_dispatch.md R105). -/
theorem State.getV_setResultFlag (r q : RegIdx) (res : Byte) (c : Bool) :
    (s.setResultFlag .flagLast r res c).getV q =
      if q = VF then flagByte c else if q = r then res else s.getV q := by
  simp [State.setResultFlag, State.getV_setFlag, State.getV_setV]

/-- A result and a flag change registers only. -/
theorem State.setResultFlag_eq (r : RegIdx) (res : Byte) (c : Bool) :
    s.setResultFlag .flagLast r res c = (s.setV r res).setFlag c := rfl

end Sys2Proof.Machine
end

