-- ==== Sys2Proof/Laws/Memory.lean ====
section
/-! SUPPORT. The laws of main memory: what a read gives after a write, and that every operation keeps the canonical
form (20_memory.md R51 to R53). -/

namespace Sys2Proof.Machine

/-! ### Reading after writing, in any list of cells -/

theorem Memory.read_erase_of_ne {a c : Nat} (h : c ≠ a) (m : Memory) :
    Memory.read (Memory.erase a m) c = Memory.read m c := by
  induction m with
  | nil => rfl
  | cons d m ih =>
    by_cases hd : d.1 = a
    · rw [Memory.erase, if_pos hd, ih, Memory.read, if_neg (by omega)]
    · simp only [Memory.erase, if_neg hd, Memory.read, ih]

theorem Memory.not_mem_erase (a : Nat) (m : Memory) : ∀ c ∈ Memory.erase a m, c.1 ≠ a := by
  induction m with
  | nil => simp [Memory.erase]
  | cons d m ih =>
    by_cases hd : d.1 = a
    · simpa [Memory.erase, hd] using ih
    · simpa [Memory.erase, hd] using ih

theorem Memory.read_unlisted {a : Nat} {m : Memory} (h : ∀ c ∈ m, c.1 ≠ a) : Memory.read m a = Memory.unlisted a := by
  induction m with
  | nil => rfl
  | cons d m ih =>
    rw [Memory.read, if_neg (h d (by simp)), ih fun c hc => h c (by simp [hc])]

theorem Memory.read_insert_of_ne {a c : Nat} (h : c ≠ a) (b : Byte) (m : Memory) :
    Memory.read (Memory.insert a b m) c = Memory.read m c := by
  induction m with
  | nil => simp [Memory.insert, Memory.read, Ne.symm h]
  | cons d m ih =>
    by_cases hd : a < d.1
    · simp [Memory.insert, hd, Memory.read, Ne.symm h]
    · simp [Memory.insert, hd, Memory.read, ih]

theorem Memory.read_insert_same {a : Nat} (b : Byte) {m : Memory} (h : ∀ c ∈ m, c.1 ≠ a) :
    Memory.read (Memory.insert a b m) a = b := by
  induction m with
  | nil => simp [Memory.insert, Memory.read]
  | cons d m ih =>
    by_cases hd : a < d.1
    · simp [Memory.insert, hd, Memory.read]
    · rw [Memory.insert, if_neg hd, Memory.read, if_neg (h d (by simp)), ih fun c hc => h c (by simp [hc])]

/-- A read after a write: the written byte at its own address, what was there before everywhere else (R52, R53). -/
theorem Memory.read_write (m : Memory) (a c : Nat) (b : Byte) :
    Memory.read (Memory.write m a b) c = if c = a then b else Memory.read m c := by
  unfold Memory.write
  by_cases hb : b = Memory.unlisted a
  · rw [if_pos hb]
    by_cases hc : c = a
    · rw [if_pos hc, hc, Memory.read_unlisted (Memory.not_mem_erase a m), hb]
    · rw [if_neg hc, Memory.read_erase_of_ne hc]
  · rw [if_neg hb]
    by_cases hc : c = a
    · rw [if_pos hc, hc, Memory.read_insert_same b (Memory.not_mem_erase a m)]
    · rw [if_neg hc, Memory.read_insert_of_ne hc, Memory.read_erase_of_ne hc]

/-! ### The canonical form -/

theorem Memory.mem_erase {a : Nat} {m : Memory} {c : Host.Cell} (h : c ∈ Memory.erase a m) : c ∈ m := by
  induction m with
  | nil => simp [Memory.erase] at h
  | cons d m ih =>
    by_cases hd : d.1 = a
    · exact List.mem_cons_of_mem _ (ih (by simpa [Memory.erase, hd] using h))
    · rcases (by simpa [Memory.erase, hd] using h : c = d ∨ c ∈ Memory.erase a m) with h | h
      · simp [h]
      · exact List.mem_cons_of_mem _ (ih h)

theorem Memory.wf_erase {m : Memory} (h : Memory.wf m) (a : Nat) : Memory.wf (Memory.erase a m) := by
  refine ⟨?_, fun c hc => h.2 c (Memory.mem_erase hc)⟩
  obtain ⟨h, -⟩ := h
  induction m with
  | nil => simp [Memory.erase]
  | cons d m ih =>
    rw [List.pairwise_cons] at h
    by_cases hd : d.1 = a
    · simpa [Memory.erase, hd] using ih h.2
    · rw [Memory.erase, if_neg hd, List.pairwise_cons]
      exact ⟨fun c hc => h.1 c (Memory.mem_erase hc), ih h.2⟩

theorem Memory.mem_insert {a : Nat} {b : Byte} {m : Memory} {c : Host.Cell} (h : c ∈ Memory.insert a b m) :
    c = (a, b) ∨ c ∈ m := by
  induction m with
  | nil => simpa [Memory.insert] using h
  | cons d m ih =>
    by_cases hd : a < d.1
    · simpa [Memory.insert, hd] using h
    · rcases (by simpa [Memory.insert, hd] using h : c = d ∨ c ∈ Memory.insert a b m) with h | h
      · simp [h]
      · exact (ih h).imp id (List.mem_cons_of_mem _)

theorem Memory.wf_insert {m : Memory} (h : Memory.wf m) {a : Nat} (ha : a < 4096) {b : Byte}
    (hb : b ≠ Memory.unlisted a) (hn : ∀ c ∈ m, c.1 ≠ a) : Memory.wf (Memory.insert a b m) := by
  refine ⟨?_, fun c hc => (Memory.mem_insert hc).elim (fun e => by rw [e]; exact ⟨ha, hb⟩) (h.2 c)⟩
  obtain ⟨h, -⟩ := h
  induction m with
  | nil => simp [Memory.insert]
  | cons d m ih =>
    have hd := hn d (by simp)
    rw [List.pairwise_cons] at h
    by_cases hlt : a < d.1
    · rw [Memory.insert, if_pos hlt, List.pairwise_cons]
      refine ⟨fun c hc => ?_, List.pairwise_cons.2 h⟩
      rcases List.mem_cons.1 hc with e | e
      · rw [e]; exact hlt
      · exact Nat.lt_trans hlt (h.1 c e)
    · rw [Memory.insert, if_neg hlt, List.pairwise_cons]
      refine ⟨fun c hc => (Memory.mem_insert hc).elim (fun e => by rw [e]; show d.1 < a; omega) (h.1 c), ?_⟩
      exact ih (fun c hc => hn c (by simp [hc])) h.2

/-- A write within 4096 bytes keeps the canonical form. -/
theorem Memory.wf_write {m : Memory} (h : Memory.wf m) {a : Nat} (ha : a < 4096) (b : Byte) :
    Memory.wf (Memory.write m a b) := by
  unfold Memory.write
  by_cases hb : b = Memory.unlisted a
  · rw [if_pos hb]; exact Memory.wf_erase h a
  · rw [if_neg hb]; exact Memory.wf_insert (Memory.wf_erase h a) ha hb (Memory.not_mem_erase a m)

theorem Memory.wf_reset : Memory.wf State.reset.mem := by simp [State.reset, Memory.wf]

/-! ### The state's memory operations -/

theorem cellOf_lt (ea : Word16) : cellOf ea < 4096 := Nat.mod_lt _ (by decide)

theorem State.memRead_memWrite (s : State) (a c : Word16) (b : Byte) :
    (s.memWrite a b).memRead c = if cellOf c = cellOf a then b else s.memRead c := Memory.read_write _ _ _ _

theorem State.wf_memWrite {s : State} (h : Memory.wf s.mem) (a : Word16) (b : Byte) :
    Memory.wf (s.memWrite a b).mem := Memory.wf_write h (cellOf_lt a) b

theorem State.wf_memWriteBytes {s : State} (h : Memory.wf s.mem) (a : Word16) (bs : List Byte) :
    Memory.wf (s.memWriteBytes a bs).mem := by
  induction bs generalizing s a with
  | nil => exact h
  | cons b bs ih => exact ih (State.wf_memWrite h a b) (a + 1)

/-- How far the cell of `c` lies after the cell of `a`, around the 4096 bytes (R51). -/
def offsetFrom (a c : Word16) : Nat := (c - a).toNat % 4096

theorem offsetFrom_lt (a c : Word16) : offsetFrom a c < 4096 := Nat.mod_lt _ (by decide)

theorem offsetFrom_eq_zero_iff (a c : Word16) : offsetFrom a c = 0 ↔ cellOf c = cellOf a := by
  simp only [offsetFrom, cellOf]; bv_omega

theorem offsetFrom_succ (a c : Word16) (h : offsetFrom a c ≠ 0) : offsetFrom (a + 1) c = offsetFrom a c - 1 := by
  simp only [offsetFrom] at *; bv_omega

theorem offsetFrom_succ_of_zero (a c : Word16) (h : offsetFrom a c = 0) : offsetFrom (a + 1) c = 4095 := by
  simp only [offsetFrom] at *; bv_omega

theorem offsetFrom_eq_iff (a c : Word16) {k : Nat} (hk : k < 4096) :
    offsetFrom a c = k ↔ cellOf c = cellOf (a + BitVec.ofNat 16 k) := by
  simp only [offsetFrom, cellOf]; bv_omega

/-- The address falls on one of `n` bytes from `a` on iff it lies less than `n` bytes after it. -/
theorem inBlock_iff (a c : Word16) {n : Nat} (hn : n ≤ 4096) : InBlock a n c ↔ offsetFrom a c < n := by
  constructor
  · rintro ⟨k, hk, h⟩
    rw [(offsetFrom_eq_iff a c (by omega)).2 h]; exact hk
  · exact fun h => ⟨_, h, (offsetFrom_eq_iff a c (by omega)).1 rfl⟩

/-- What memory reads as after bytes have been stored from `a` on: the k-th byte at the k-th address, everything else as
before (R51, R53, R57). -/
theorem State.memRead_memWriteBytes (s : State) (a c : Word16) {bs : List Byte} (hn : bs.length ≤ 4096) :
    (s.memWriteBytes a bs).memRead c = if h : offsetFrom a c < bs.length then bs[offsetFrom a c] else s.memRead c := by
  induction bs generalizing s a with
  | nil => simp [State.memWriteBytes]
  | cons b bs ih =>
    rw [List.length_cons] at hn
    rw [State.memWriteBytes, ih _ _ (by omega), State.memRead_memWrite]
    by_cases h0 : offsetFrom a c = 0
    · have h1 := offsetFrom_succ_of_zero a c h0
      rw [dif_neg (by omega), if_pos ((offsetFrom_eq_zero_iff a c).1 h0), dif_pos (by simp [h0])]
      simp [h0]
    · have h1 := offsetFrom_succ a c h0
      rw [if_neg fun h => h0 ((offsetFrom_eq_zero_iff a c).2 h)]
      by_cases hl : offsetFrom a c < bs.length + 1
      · rw [dif_pos (by omega), dif_pos (by simpa using hl)]
        have e : offsetFrom a c = offsetFrom (a + 1) c + 1 := by omega
        simp only [e, List.getElem_cons_succ]
      · rw [dif_neg (by omega), dif_neg (by simpa using hl)]

/-- The k-th of the stored bytes is at the k-th address. -/
theorem State.memRead_memWriteBytes_at (s : State) (a : Word16) {bs : List Byte} (hn : bs.length ≤ 4096) {k : Nat}
    (hk : k < bs.length) : (s.memWriteBytes a bs).memRead (a + BitVec.ofNat 16 k) = bs[k] := by
  have e : offsetFrom a (a + BitVec.ofNat 16 k) = k := (offsetFrom_eq_iff _ _ (by omega)).2 rfl
  rw [State.memRead_memWriteBytes s a _ hn, dif_pos (by omega)]
  simp only [e]

/-- Every byte outside the stored ones reads as before. -/
theorem State.memRead_memWriteBytes_outside (s : State) (a c : Word16) {bs : List Byte} (hn : bs.length ≤ 4096)
    (h : ¬ InBlock a bs.length c) : (s.memWriteBytes a bs).memRead c = s.memRead c := by
  rw [inBlock_iff a c hn] at h
  rw [State.memRead_memWriteBytes s a c hn, dif_neg h]

/-- The load port keeps the canonical form. -/
theorem State.wf_loadBytes {s : State} (h : Memory.wf s.mem) (ls : List LoadByte) : Memory.wf (s.loadBytes ls).mem := by
  induction ls generalizing s with
  | nil => exact h
  | cons l ls ih => exact ih (State.wf_memWrite h _ _)

theorem cellOf_loadAddr (l : LoadByte) : cellOf (l.addr.setWidth 16) = l.addr.toNat := by
  have := l.addr.isLt
  simp [cellOf]; omega

/-- What memory reads as after the load port has stored its bytes: the last one stored at the cell, else as before
(10_state.md R42). -/
theorem State.memRead_loadBytes (s : State) (ls : List LoadByte) (ea : Word16) :
    (s.loadBytes ls).memRead ea =
      match ls.reverse.find? (·.addr.toNat == cellOf ea) with
      | some l => l.data
      | none => s.memRead ea := by
  induction ls generalizing s with
  | nil => rfl
  | cons l ls ih =>
    rw [State.loadBytes, ih, List.reverse_cons, List.find?_append]
    cases ls.reverse.find? (·.addr.toNat == cellOf ea) with
    | some k => rfl
    | none =>
      simp only [Option.none_or, List.find?_cons, List.find?_nil]
      rw [State.memRead_memWrite, cellOf_loadAddr]
      by_cases h : cellOf ea = l.addr.toNat
      · simp [h]
      · simp [h, beq_false_of_ne (Ne.symm h)]

/-- Addresses of the same cell read the same byte (R52). -/
theorem State.memRead_congr (s : State) {a c : Word16} (h : cellOf a = cellOf c) : s.memRead a = s.memRead c := by
  simp only [State.memRead, h]

@[simp] theorem State.length_memReadBytes (s : State) (a : Word16) (n : Nat) : (s.memReadBytes a n).length = n := by
  simp [State.memReadBytes]

@[simp] theorem State.getElem_memReadBytes (s : State) (a : Word16) (n k : Nat) (h : k < (s.memReadBytes a n).length) :
    (s.memReadBytes a n)[k] = s.memRead (a + BitVec.ofNat 16 k) := by
  simp [State.memReadBytes, State.memReadAt]

@[simp] theorem State.length_regsUpTo (s : State) (x : RegIdx) : (s.regsUpTo x).length = x.toNat + 1 := by
  have := x.isLt
  simp [State.regsUpTo]; omega

theorem State.getElem_regsUpTo (s : State) (x r : RegIdx) (h : r.toNat < (s.regsUpTo x).length) :
    (s.regsUpTo x)[r.toNat] = s.getV r := by
  simp [State.regsUpTo, State.getV]

end Sys2Proof.Machine
end

