-- ==== Sys2Proof/Laws/Ops.lean ====
section
/-! SUPPORT. One law per shared operation: everything it can do. -/

namespace Sys2Proof.Machine

/-! ### Key numbers (46_keypad.md R200 to R202) -/

/-- A key number within range is looked up; KeyIndexRange is not recorded. -/
theorem State.keyHeld_of_lt (s : State) (p : KeyIndexPolicy) {b : Byte} (h : b.toNat < 16) :
    s.keyHeld p b = s.key[b.toNat] := by
  have e : (b.setWidth 4).toNat = b.toNat := by simp; omega
  simp only [State.keyHeld, keyOutOfRange, State.getKey, e, decide_eq_true_eq, if_neg (show ¬ 15 < b.toNat by omega)]

theorem State.checkKeyIndex_of_lt (s : State) (p : KeyIndexPolicy) {b : Byte} (w : Word16) (h : b.toNat < 16) :
    s.checkKeyIndex p b w = s := by
  simp [State.checkKeyIndex, keyOutOfRange, show ¬ 15 < b.toNat by omega]

/-- A key number above 15 counts as not held, and KeyIndexRange is recorded (R202, D15). -/
theorem State.keyHeld_of_ge (s : State) {b : Byte} (h : 16 ≤ b.toNat) : s.keyHeld .notHeld b = false := by
  simp [State.keyHeld, keyOutOfRange, show 15 < b.toNat by omega]

theorem State.checkKeyIndex_of_ge (s : State) {b : Byte} (w : Word16) (h : 16 ≤ b.toNat) :
    s.checkKeyIndex .notHeld b w = s.diagnose .keyIndexRange w := by
  simp [State.checkKeyIndex, keyOutOfRange, show 15 < b.toNat by omega]

/-- Checking a key number records a diagnostic or does nothing. -/
theorem State.checkKeyIndex_cases (s : State) (p : KeyIndexPolicy) (b : Byte) (w : Word16) :
    s.checkKeyIndex p b w = s ∨ s.checkKeyIndex p b w = s.diagnose .keyIndexRange w := by
  unfold State.checkKeyIndex
  split
  · exact .inr rfl
  · exact .inl rfl

/-! ### Call stack (41_flow.md R121, R122) -/

/-- Everything a CALL can do: overflow, push and jump, or stop with an SP that no run reaches. -/
theorem execCall_cases (nnn : Addr12) (s : State) :
    (s.sp = 16 ∧ execCall nnn s = .next (s.diagnose .stackOverflow (encode (.call nnn))).advance) ∨
    (∃ h : s.sp.toNat < 16, execCall nnn s = .next ((s.push s.pc h).jumpTo (zextAddr nnn))) ∨
    (16 < s.sp.toNat ∧ execCall nnn s = .fault .stackIndexOutOfRange) := by
  unfold execCall
  split
  · exact .inl ⟨‹_›, rfl⟩
  · split
    · exact .inr (.inl ⟨‹_›, rfl⟩)
    · exact .inr (.inr ⟨by bv_omega, rfl⟩)

/-- Everything a RET can do: underflow, pop, or stop with an SP that no run reaches. -/
theorem execRet_cases (s : State) :
    (s.sp = 0 ∧ execRet s = .next (s.diagnose .stackUnderflow (encode .ret)).advance) ∨
    (∃ h : (s.sp - 1).toNat < 16, s.sp ≠ 0 ∧
      execRet s = .next (s.drop.jumpTo (s.stack[(s.sp - 1).toNat] + 2))) ∨
    (16 < s.sp.toNat ∧ execRet s = .fault .stackIndexOutOfRange) := by
  unfold execRet
  split
  · exact .inl ⟨‹_›, rfl⟩
  · split
    · exact .inr (.inl ⟨‹_›, ‹_›, rfl⟩)
    · exact .inr (.inr ⟨by bv_omega, rfl⟩)

theorem toNat_pred {b : Byte} (h : b ≠ 0) : (b - 1).toNat = b.toNat - 1 := by bv_omega

/-! ### Timers (47_timers.md R219) -/

theorem toNat_countDown (b : Byte) : (countDown b).toNat = b.toNat - 1 := by
  unfold countDown
  split
  · simp [*]
  · exact toNat_pred ‹_›

/-! ### The end of a step and the next event (40_step_and_dispatch.md R100, R104; log 22) -/

/-- A step that completes ends with the slot empty, and is otherwise the instruction's own next state. -/
theorem endStep_eq_next {r : Result} {t : State} : endStep r = .next t ↔ ∃ u, r = .next u ∧ t = u.clearSlot := by
  cases r <;> simp [endStep, eq_comm]

theorem step_of_agenda_nil {s : State} (h : s.agenda = []) : step s = stepEvent s := by
  simp [step, applyNextEvent, h]

theorem step_of_agenda_cons {s : State} {e : Event} {rest : List Event} (h : s.agenda = e :: rest) :
    step s = applyEvent e (s.setAgenda rest) := by
  simp [step, applyNextEvent, h]

theorem execOpcode_of_some {w : Word16} {i : Instr} (h : decodeOpcode w = some i) (s : State) :
    execOpcode w s = exec i s := by
  simp [execOpcode, h]

theorem execOpcode_of_none {w : Word16} (h : decodeOpcode w = none) (s : State) :
    execOpcode w s = .next (s.diagnose .unknownOpcode w).advance := by
  simp [execOpcode, h, execUndef]

/-! ### Runs (Host.Core.run of the machine) -/

theorem run_of_next {M : Host.Core} {s t : M.State} (n : Nat) (h : M.step s = .next t) :
    M.run (n + 1) s = M.run n t := by
  simp only [Host.Core.run, h]

theorem run_of_fault {M : Host.Core} {s : M.State} {f : M.Fault} (n : Nat) (h : M.step s = .fault f) :
    M.run (n + 1) s = .fault f := by
  simp only [Host.Core.run, h]

theorem run_of_refused {M : Host.Core} {s : M.State} {r : M.Refusal} (n : Nat) (h : M.step s = .refused r) :
    M.run (n + 1) s = .refused r := by
  simp only [Host.Core.run, h]

theorem core_run_zero (s : State) : core.run 0 s = .next s := rfl

theorem core_run_of_next {s t : State} (n : Nat) (h : step s = .next t) : core.run (n + 1) s = core.run n t :=
  run_of_next (M := core) n h

theorem core_run_of_fault {s : State} {f : Fault} (n : Nat) (h : step s = .fault f) : core.run (n + 1) s = .fault f :=
  run_of_fault (M := core) n h

theorem core_run_of_refused {s : State} {r : Refusal} (n : Nat) (h : step s = .refused r) :
    core.run (n + 1) s = .refused r :=
  run_of_refused (M := core) n h

end Sys2Proof.Machine
end

