-- ==== Sys2Proof/Laws/Display.lean ====
section
/-! SUPPORT. The law of the sprite draw (45_display.md R186 to R189): which pixels it flips, and when it reports a
collision. -/

namespace Sys2Proof.Machine

/-! ### The framebuffer -/

theorem Framebuffer.get_flip (fb : Framebuffer) (x px : Fin 64) (y py : Fin 32) :
    Framebuffer.get (Framebuffer.flip fb x y) px py =
      if px = x ∧ py = y then !Framebuffer.get fb x y else Framebuffer.get fb px py := by
  simp only [Framebuffer.get, Framebuffer.flip, Vector.getElem_set]
  by_cases hy : py = y
  · subst hy
    by_cases hx : px = x
    · subst hx; simp
    · simp [hx, Fin.val_ne_of_ne (Ne.symm hx)]
  · simp [hy, Fin.val_ne_of_ne (Ne.symm hy)]

@[simp] theorem Framebuffer.get_blank (x : Fin 64) (y : Fin 32) : Framebuffer.get Framebuffer.blank x y = false := by
  simp [Framebuffer.get, Framebuffer.blank]

/-- A framebuffer is its pixels. -/
theorem Framebuffer.ext_get {fb gb : Framebuffer} (h : ∀ x y, Framebuffer.get fb x y = Framebuffer.get gb x y) :
    fb = gb := by
  apply Vector.ext; intro j hj
  apply Vector.ext; intro i hi
  exact h ⟨i, hi⟩ ⟨j, hj⟩

/-! ### What a piece of a draw does -/

/-- Every pixel a sprite covers is flipped, every other one is kept, and the collision is reported iff it was before or a
covered pixel was lit (R189). -/
structure Draws (covers : Fin 64 → Fin 32 → Prop) (d e : DrawAcc) : Prop where
  flips : ∀ x y, covers x y → Framebuffer.get e.fb x y = !Framebuffer.get d.fb x y
  keeps : ∀ x y, ¬ covers x y → Framebuffer.get e.fb x y = Framebuffer.get d.fb x y
  hits  : e.hit = true ↔ d.hit = true ∨ ∃ x y, covers x y ∧ Framebuffer.get d.fb x y = true

theorem Draws.none {covers : Fin 64 → Fin 32 → Prop} (h : ∀ x y, ¬ covers x y) (d : DrawAcc) : Draws covers d d :=
  ⟨fun x y hc => absurd hc (h x y), fun _ _ _ => rfl, by simp [h]⟩

/-- Two pieces that cover no pixel twice draw their union (R188). -/
theorem Draws.trans {c₁ c₂ : Fin 64 → Fin 32 → Prop} {d e f : DrawAcc} (h₁ : Draws c₁ d e) (h₂ : Draws c₂ e f)
    (disjoint : ∀ x y, c₁ x y → ¬ c₂ x y) : Draws (fun x y => c₁ x y ∨ c₂ x y) d f where
  flips x y hc := by
    rcases hc with hc | hc
    · rw [h₂.keeps x y (disjoint x y hc), h₁.flips x y hc]
    · rw [h₂.flips x y hc, h₁.keeps x y fun h => disjoint x y h hc]
  keeps x y hc := by
    rw [h₂.keeps x y fun h => hc (.inr h), h₁.keeps x y fun h => hc (.inl h)]
  hits := by
    have lit : ∀ x y, c₂ x y → (Framebuffer.get e.fb x y = true ↔ Framebuffer.get d.fb x y = true) :=
      fun x y hc => by rw [h₁.keeps x y fun h => disjoint x y h hc]
    rw [h₂.hits, h₁.hits, or_assoc]
    refine or_congr_right ⟨?_, ?_⟩
    · rintro (⟨x, y, hc, hl⟩ | ⟨x, y, hc, hl⟩)
      · exact ⟨x, y, .inl hc, hl⟩
      · exact ⟨x, y, .inr hc, (lit x y hc).1 hl⟩
    · rintro ⟨x, y, hc | hc, hl⟩
      · exact .inl ⟨x, y, hc, hl⟩
      · exact .inr ⟨x, y, hc, (lit x y hc).2 hl⟩

theorem Draws.congr {c₁ c₂ : Fin 64 → Fin 32 → Prop} {d e : DrawAcc} (h : Draws c₁ d e)
    (hc : ∀ x y, c₁ x y ↔ c₂ x y) : Draws c₂ d e := by
  have : c₁ = c₂ := funext fun x => funext fun y => propext (hc x y)
  exact this ▸ h

/-- One sprite bit covers its pixel if it is 1 (R187). -/
theorem drawPixel_draws (d : DrawAcc) (px py : Nat) (bit : Bool) :
    Draws (fun x y => bit = true ∧ x = colOf px ∧ y = rowOf py) d (drawPixel d px py bit) := by
  cases bit with
  | false => exact Draws.none (by simp) d
  | true =>
    refine ⟨fun x y h => ?_, fun x y h => ?_, ?_⟩
    · obtain ⟨-, rfl, rfl⟩ := h
      simp [drawPixel, Framebuffer.get_flip]
    · simp only [drawPixel, if_true, Framebuffer.get_flip]
      rw [if_neg fun hc => h ⟨rfl, hc⟩]
    · simp [drawPixel]

theorem colOf_ne {vx j k : Nat} (h : j < k) (hk : k < 64) : colOf (vx + j) ≠ colOf (vx + k) := by
  simp only [colOf, ne_eq, Fin.mk.injEq]; omega

theorem rowOf_ne {vy k : Nat} (h : 0 < k) (hk : k < 32) : rowOf vy ≠ rowOf (vy + k) := by
  simp only [rowOf, ne_eq, Fin.mk.injEq]; omega

/-- A sprite row covers the pixels of its 1 bits (R186). -/
theorem drawRow_draws (d : DrawAcc) (vx py : Nat) (b : Byte) {cols : Nat} (hc : cols ≤ 64) :
    Draws (fun x y => y = rowOf py ∧ ∃ col < cols, x = colOf (vx + col) ∧ spriteBit Config.spriteMsbLeft b col = true)
      d (drawRow d vx py b cols) := by
  induction cols with
  | zero => exact Draws.none (by simp) d
  | succ n ih =>
    have e : drawRow d vx py b (n + 1) =
        drawPixel (drawRow d vx py b n) (vx + n) py (spriteBit Config.spriteMsbLeft b n) := by
      simp [drawRow, List.range_succ]
    rw [e]
    refine ((ih (by omega)).trans (drawPixel_draws _ _ _ _) ?_).congr ?_
    · rintro x y ⟨-, col, hcol, rfl, -⟩ ⟨-, hx, -⟩
      exact colOf_ne hcol (by omega) hx
    · intro x y
      constructor
      · rintro (⟨hy, col, hcol, h⟩ | ⟨hb, hx, hy⟩)
        · exact ⟨hy, col, by omega, h⟩
        · exact ⟨hy, n, by omega, hx, hb⟩
      · rintro ⟨hy, col, hcol, hx, hb⟩
        by_cases h : col = n
        · subst h; exact .inr ⟨hb, hx, hy⟩
        · exact .inl ⟨hy, col, by omega, hx, hb⟩

/-- A sprite covers the pixels of the 1 bits of all its rows (R186). -/
theorem drawRows_draws (d : DrawAcc) (vx vy : Nat) {bs : List Byte} (hn : bs.length ≤ 32) :
    Draws (fun x y => ∃ row, ∃ h : row < bs.length, ∃ col < 8, x = colOf (vx + col) ∧ y = rowOf (vy + row) ∧
        spriteBit Config.spriteMsbLeft bs[row] col = true)
      d (drawRows d vx vy bs) := by
  induction bs generalizing d vy with
  | nil => exact Draws.none (by simp) d
  | cons b bs ih =>
    rw [List.length_cons] at hn
    refine ((drawRow_draws d vx vy b (cols := 8) (by decide)).trans (ih _ (vy + 1) (by omega)) ?_).congr ?_
    · rintro x y ⟨hy, -⟩ ⟨row, hrow, -, -, -, hy', -⟩
      rw [hy, Nat.add_assoc] at hy'
      exact rowOf_ne (by omega) (by omega) hy'
    · intro x y
      constructor
      · rintro (⟨hy, col, hcol, hx, hb⟩ | ⟨row, hrow, col, hcol, hx, hy, hb⟩)
        · exact ⟨0, by simp, col, hcol, hx, hy, hb⟩
        · exact ⟨row + 1, by simpa using hrow, col, hcol, hx, by rw [hy]; congr 1; omega, by simpa using hb⟩
      · rintro ⟨row, hrow, col, hcol, hx, hy, hb⟩
        cases row with
        | zero => exact .inl ⟨hy, col, hcol, hx, hb⟩
        | succ row =>
          exact .inr ⟨row, by simpa using hrow, col, hcol, hx, by rw [hy]; congr 1; omega, by simpa using hb⟩

end Sys2Proof.Machine
end

