-- ==== Sys2Proof/Laws/Inputs.lean ====
section
/-! SUPPORT. The laws of RESET (70_reset_and_hazards.md R260 to R265), of the load port and the clock cycles
(10_state.md R42), and of the diagnostic port. -/

namespace Sys2Proof.Machine

/-! ### RESET -/

theorem length_romKept (rom : List Byte) : (romKept rom).length = min 3584 rom.length := by simp [romKept]

theorem State.memRead_reset (ea : Word16) : State.reset.memRead ea = Config.font.toList.getD (cellOf ea) 0 := rfl

/-- Memory after RESET(ROM) (R261 to R263). -/
theorem State.memRead_resetWith (font : Font) (rom : List Byte) (ea : Word16) :
    (State.resetWith font rom).memRead ea = resetByte font rom [] (cellOf ea) := by
  have hc : cellOf ea = ea.toNat % 4096 := rfl
  have hf : font.toList.length = 80 := by simp
  have hr := length_romKept rom
  have h0 : offsetFrom 0 ea = cellOf ea := by simp [offsetFrom, cellOf]
  have h2 : offsetFrom 0x200 ea = if 0x200 ≤ cellOf ea then cellOf ea - 0x200 else cellOf ea + 3584 := by
    by_cases h : 0x200 ≤ cellOf ea
    · rw [if_pos h]; simp only [offsetFrom, cellOf] at *; bv_omega
    · rw [if_neg h]; simp only [offsetFrom, cellOf] at *; bv_omega
  rw [State.resetWith, State.memRead_memWriteBytes _ _ _ (by omega), State.memRead_memWriteBytes _ _ _ (by omega),
    State.memRead_reset]
  simp only [resetByte, List.reverse_nil, List.find?_nil]
  by_cases h1 : cellOf ea < 80
  · rw [if_pos h1, dif_neg (by rw [h2, if_neg (by omega)]; omega), dif_pos (by omega),
      List.getD_eq_getElem _ _ (by omega)]
    simp only [h0]
  · rw [if_neg h1]
    have hd : Config.font.toList.getD (cellOf ea) 0 = 0 := List.getD_eq_default _ _ (by simp; omega)
    by_cases h3 : 0x200 ≤ cellOf ea
    · rw [if_pos h3] at h2 ⊢
      by_cases h4 : cellOf ea - 0x200 < rom.length
      · have := cellOf_lt ea
        rw [dif_pos (by omega), List.getD_eq_getElem _ _ h4]
        simp only [h2, romKept, List.getElem_take]
      · rw [dif_neg (by omega), dif_neg (by omega), hd, List.getD_eq_default _ _ (by omega)]
    · rw [if_neg h3] at h2 ⊢
      rw [dif_neg (by omega), dif_neg (by omega), hd]

theorem State.wf_resetWith (font : Font) (rom : List Byte) : Memory.wf (State.resetWith font rom).mem :=
  State.wf_memWriteBytes (State.wf_memWriteBytes Memory.wf_reset _ _) _ _

/-- Memory after the event RESET: the load port's bytes over the ROM and FONT (10_state.md R42). -/
theorem applyReset_memRead (font : Font) (rom : List Byte) (loads : List LoadByte) (s : State) (ea : Word16) :
    (applyReset font rom loads s).memRead ea = resetByte font rom loads (cellOf ea) := by
  change ((State.resetWith font rom).loadBytes loads).memRead ea = _
  rw [State.memRead_loadBytes, State.memRead_resetWith]
  unfold resetByte
  cases loads.reverse.find? (·.addr.toNat == cellOf ea) <;> rfl

theorem applyReset_wf (font : Font) (rom : List Byte) (loads : List LoadByte) (s : State) :
    Memory.wf (applyReset font rom loads s).mem := State.wf_loadBytes (State.wf_resetWith font rom) loads

variable (font : Font) (rom : List Byte) (loads : List LoadByte) (s : State)

@[simp] theorem applyReset_v : (applyReset font rom loads s).v = State.reset.v := by simp [applyReset, State.resetWith]
@[simp] theorem applyReset_i : (applyReset font rom loads s).i = State.reset.i := by simp [applyReset, State.resetWith]
@[simp] theorem applyReset_pc : (applyReset font rom loads s).pc = 0x0200 := by
  simp [applyReset, State.resetWith, State.reset]
@[simp] theorem applyReset_sp : (applyReset font rom loads s).sp = 0 := by
  simp [applyReset, State.resetWith, State.reset]
@[simp] theorem applyReset_stack : (applyReset font rom loads s).stack = State.reset.stack := by
  simp [applyReset, State.resetWith]
@[simp] theorem applyReset_dt : (applyReset font rom loads s).dt = 0 := by
  simp [applyReset, State.resetWith, State.reset]
@[simp] theorem applyReset_st : (applyReset font rom loads s).st = 0 := by
  simp [applyReset, State.resetWith, State.reset]
@[simp] theorem applyReset_fb : (applyReset font rom loads s).fb = State.reset.fb := by
  simp [applyReset, State.resetWith]
@[simp] theorem applyReset_key : (applyReset font rom loads s).key = State.reset.key := by
  simp [applyReset, State.resetWith]
@[simp] theorem applyReset_slot : (applyReset font rom loads s).slot = none := by
  simp [applyReset, State.resetWith, State.reset]
@[simp] theorem applyReset_diags : (applyReset font rom loads s).diags = [] := by
  simp [applyReset, State.resetWith, State.reset]
@[simp] theorem applyReset_draws : (applyReset font rom loads s).draws = s.draws := rfl
@[simp] theorem applyReset_agenda : (applyReset font rom loads s).agenda = s.agenda := rfl

/-! ### Clock cycles (10_state.md R42, R43) -/

theorem cyclesEvents_low (pending : Option (List LoadByte)) {c : CycleInputs} (h : c.rst = false)
    (cs : List CycleInputs) :
    cyclesEvents font pending (c :: cs) =
      (match pending with | none => [] | some ls => [.reset font [] ls]) ++ (c.events ++ cyclesEvents font none cs) := by
  cases pending <;> simp [cyclesEvents, h]

theorem filterMap_load_cons (c : CycleInputs) (cs : List CycleInputs) :
    (c :: cs).filterMap (·.load) = c.load.toList ++ cs.filterMap (·.load) := by
  cases h : c.load <;> simp [h]

/-- An assertion of `rst` that has begun gathers the loads of its further cycles. -/
theorem cyclesEvents_high (ls : List LoadByte) {cs : List CycleInputs} (h : ∀ c ∈ cs, c.rst = true)
    (ds : List CycleInputs) :
    cyclesEvents font (some ls) (cs ++ ds) = cyclesEvents font (some (ls ++ cs.filterMap (·.load))) ds := by
  induction cs generalizing ls with
  | nil => simp
  | cons c cs ih =>
    simp only [List.cons_append, cyclesEvents, h c List.mem_cons_self]
    rw [ih _ fun d hd => h d (List.mem_cons_of_mem c hd), filterMap_load_cons, List.append_assoc]

/-- Cycles with `rst` asserted are one RESET with all their loads, before what follows. -/
theorem cyclesEvents_rst {cs : List CycleInputs} (hne : cs ≠ []) (h : ∀ c ∈ cs, c.rst = true) (ds : List CycleInputs) :
    cyclesEvents font none (cs ++ ds) = cyclesEvents font (some (cs.filterMap (·.load))) ds := by
  cases cs with
  | nil => exact absurd rfl hne
  | cons c cs =>
    simp only [List.cons_append, cyclesEvents, h c List.mem_cons_self]
    rw [cyclesEvents_high font _ (fun d hd => h d (List.mem_cons_of_mem c hd)), filterMap_load_cons]

/-! ### The diagnostic port (10_state.md R42) -/

theorem State.diagPort_disabled (s t : State) : State.diagPort false s t = none := rfl

/-- The port shows the newest of the diagnostics recorded in between. -/
theorem State.diagPort_of_append {s t : State} {ds : List Diag} (h : t.diags = ds ++ s.diags) :
    State.diagPort true s t = ds.head?.map Diag.out := by
  simp [State.diagPort, h]

end Sys2Proof.Machine
end

