-- ==== Sys2Proof/Laws/PerInstr.lean ====
section
/-! SUPPORT. Statements made of every instruction, one lemma per constructor: the opcode of an instruction matches the
instruction's own row of 30_encoding.md R84. -/

namespace Sys2Proof.Laws

/-- The opcode of the instruction, masked by its row's mask, is its row's match value (R84). -/
def RowMatch.Statement (i : Instr) : Prop := i.row.hits (encode i) = true

theorem RowMatch.cls : RowMatch.Statement .cls := by
  rw [RowMatch.Statement]; decide

theorem RowMatch.ret : RowMatch.Statement .ret := by
  rw [RowMatch.Statement]; decide

theorem RowMatch.jp (nnn : Addr12) : RowMatch.Statement (.jp nnn) := by
  rw [RowMatch.Statement, OpcodeRow.hits, Instr.row, encode, formatA_and_F000]; decide

theorem RowMatch.call (nnn : Addr12) : RowMatch.Statement (.call nnn) := by
  rw [RowMatch.Statement, OpcodeRow.hits, Instr.row, encode, formatA_and_F000]; decide

theorem RowMatch.seImm (x : RegIdx) (kk : Byte) : RowMatch.Statement (.seImm x kk) := by
  rw [RowMatch.Statement, OpcodeRow.hits, Instr.row, encode, formatK_and_F000]; decide

theorem RowMatch.sneImm (x : RegIdx) (kk : Byte) : RowMatch.Statement (.sneImm x kk) := by
  rw [RowMatch.Statement, OpcodeRow.hits, Instr.row, encode, formatK_and_F000]; decide

theorem RowMatch.seReg (x y : RegIdx) : RowMatch.Statement (.seReg x y) := by
  rw [RowMatch.Statement, OpcodeRow.hits, Instr.row, encode, opcodeOfDigits_and_F00F]; decide

theorem RowMatch.ldImm (x : RegIdx) (kk : Byte) : RowMatch.Statement (.ldImm x kk) := by
  rw [RowMatch.Statement, OpcodeRow.hits, Instr.row, encode, formatK_and_F000]; decide

theorem RowMatch.addImm (x : RegIdx) (kk : Byte) : RowMatch.Statement (.addImm x kk) := by
  rw [RowMatch.Statement, OpcodeRow.hits, Instr.row, encode, formatK_and_F000]; decide

theorem RowMatch.ldReg (x y : RegIdx) : RowMatch.Statement (.ldReg x y) := by
  rw [RowMatch.Statement, OpcodeRow.hits, Instr.row, encode, opcodeOfDigits_and_F00F]; decide

theorem RowMatch.orReg (x y : RegIdx) : RowMatch.Statement (.orReg x y) := by
  rw [RowMatch.Statement, OpcodeRow.hits, Instr.row, encode, opcodeOfDigits_and_F00F]; decide

theorem RowMatch.andReg (x y : RegIdx) : RowMatch.Statement (.andReg x y) := by
  rw [RowMatch.Statement, OpcodeRow.hits, Instr.row, encode, opcodeOfDigits_and_F00F]; decide

theorem RowMatch.xorReg (x y : RegIdx) : RowMatch.Statement (.xorReg x y) := by
  rw [RowMatch.Statement, OpcodeRow.hits, Instr.row, encode, opcodeOfDigits_and_F00F]; decide

theorem RowMatch.addReg (x y : RegIdx) : RowMatch.Statement (.addReg x y) := by
  rw [RowMatch.Statement, OpcodeRow.hits, Instr.row, encode, opcodeOfDigits_and_F00F]; decide

theorem RowMatch.subReg (x y : RegIdx) : RowMatch.Statement (.subReg x y) := by
  rw [RowMatch.Statement, OpcodeRow.hits, Instr.row, encode, opcodeOfDigits_and_F00F]; decide

theorem RowMatch.shr (x y : RegIdx) : RowMatch.Statement (.shr x y) := by
  rw [RowMatch.Statement, OpcodeRow.hits, Instr.row, encode, opcodeOfDigits_and_F00F]; decide

theorem RowMatch.subn (x y : RegIdx) : RowMatch.Statement (.subn x y) := by
  rw [RowMatch.Statement, OpcodeRow.hits, Instr.row, encode, opcodeOfDigits_and_F00F]; decide

theorem RowMatch.shl (x y : RegIdx) : RowMatch.Statement (.shl x y) := by
  rw [RowMatch.Statement, OpcodeRow.hits, Instr.row, encode, opcodeOfDigits_and_F00F]; decide

theorem RowMatch.sneReg (x y : RegIdx) : RowMatch.Statement (.sneReg x y) := by
  rw [RowMatch.Statement, OpcodeRow.hits, Instr.row, encode, opcodeOfDigits_and_F00F]; decide

theorem RowMatch.ldI (nnn : Addr12) : RowMatch.Statement (.ldI nnn) := by
  rw [RowMatch.Statement, OpcodeRow.hits, Instr.row, encode, formatA_and_F000]; decide

theorem RowMatch.jpV0 (nnn : Addr12) : RowMatch.Statement (.jpV0 nnn) := by
  rw [RowMatch.Statement, OpcodeRow.hits, Instr.row, encode, formatA_and_F000]; decide

theorem RowMatch.rnd (x : RegIdx) (kk : Byte) : RowMatch.Statement (.rnd x kk) := by
  rw [RowMatch.Statement, OpcodeRow.hits, Instr.row, encode, formatK_and_F000]; decide

theorem RowMatch.drw (x y : RegIdx) (n : Nibble) : RowMatch.Statement (.drw x y n) := by
  rw [RowMatch.Statement, OpcodeRow.hits, Instr.row, encode, opcodeOfDigits_and_F000]; decide

theorem RowMatch.skp (x : RegIdx) : RowMatch.Statement (.skp x) := by
  rw [RowMatch.Statement, OpcodeRow.hits, Instr.row, encode, formatK_and_F0FF]; decide

theorem RowMatch.sknp (x : RegIdx) : RowMatch.Statement (.sknp x) := by
  rw [RowMatch.Statement, OpcodeRow.hits, Instr.row, encode, formatK_and_F0FF]; decide

theorem RowMatch.ldVxDt (x : RegIdx) : RowMatch.Statement (.ldVxDt x) := by
  rw [RowMatch.Statement, OpcodeRow.hits, Instr.row, encode, formatK_and_F0FF]; decide

theorem RowMatch.ldVxK (x : RegIdx) : RowMatch.Statement (.ldVxK x) := by
  rw [RowMatch.Statement, OpcodeRow.hits, Instr.row, encode, formatK_and_F0FF]; decide

theorem RowMatch.ldDtVx (x : RegIdx) : RowMatch.Statement (.ldDtVx x) := by
  rw [RowMatch.Statement, OpcodeRow.hits, Instr.row, encode, formatK_and_F0FF]; decide

theorem RowMatch.ldStVx (x : RegIdx) : RowMatch.Statement (.ldStVx x) := by
  rw [RowMatch.Statement, OpcodeRow.hits, Instr.row, encode, formatK_and_F0FF]; decide

theorem RowMatch.addI (x : RegIdx) : RowMatch.Statement (.addI x) := by
  rw [RowMatch.Statement, OpcodeRow.hits, Instr.row, encode, formatK_and_F0FF]; decide

theorem RowMatch.ldF (x : RegIdx) : RowMatch.Statement (.ldF x) := by
  rw [RowMatch.Statement, OpcodeRow.hits, Instr.row, encode, formatK_and_F0FF]; decide

theorem RowMatch.ldB (x : RegIdx) : RowMatch.Statement (.ldB x) := by
  rw [RowMatch.Statement, OpcodeRow.hits, Instr.row, encode, formatK_and_F0FF]; decide

theorem RowMatch.storeRegs (x : RegIdx) : RowMatch.Statement (.storeRegs x) := by
  rw [RowMatch.Statement, OpcodeRow.hits, Instr.row, encode, formatK_and_F0FF]; decide

theorem RowMatch.loadRegs (x : RegIdx) : RowMatch.Statement (.loadRegs x) := by
  rw [RowMatch.Statement, OpcodeRow.hits, Instr.row, encode, formatK_and_F0FF]; decide

end Sys2Proof.Laws
end

