-- ==== Sys2Proof/Tests/Slice0.lean ====
section
/-! SUPPORT. The model's own tests. Expected values are those of 95_test_vectors.md (the vector's id stands in the comment)
or of 30_encoding.md R84; none is the model's own answer. The last part gives, for every obligation with hypotheses, a
concrete state and operands that meet them. -/

namespace Sys2Proof.Tests

open Sys2Proof Sys2Proof.Machine

/-! ### Helpers -/

/-- The next state of an outcome has the property. -/
def holds (r : Result) (p : State → Bool) : Bool :=
  match r with
  | .next t => p t
  | .fault _ => false
  | .refused _ => false

/-- The outcome is a fault. -/
def faults (r : Result) : Bool :=
  match r with
  | .fault _ => true
  | .next _ => false
  | .refused _ => false

/-- The outcome is a refusal. -/
def refuses (r : Result) : Bool :=
  match r with
  | .refused _ => true
  | .next _ => false
  | .fault _ => false

/-- The reset state with V0 and V1 preset. -/
def regs01 (a b : Byte) : State := (State.reset.setV 0 a).setV 1 b

/-- The reset state with one register preset. -/
def reg (r : RegIdx) (b : Byte) : State := State.reset.setV r b

/-- The reset state with I preset. -/
def atI (a : Word16) : State := State.reset.setI a

/-- The reset state with an opcode at PC. -/
def withWord (w : Word16) : State := State.reset.placeOpcode w

/-- The reset state with SP preset and the given value in every stack entry. -/
def withSp (sp : Byte) (a : Word16) : State := { State.reset with sp := sp, stack := Vector.replicate 16 a }

/-- Run a word as the first instruction after reset. -/
def firstStep (s : State) (w : Nat) : Result := step (s.withFetchWord 16 w)

/-- Whether exactly the listed pixels are lit, within the listed rows. -/
def litAre (s : State) (rows : List (Fin 32)) (lit : List (Fin 64 × Fin 32)) : Bool :=
  rows.all fun y => (List.finRange 64).all fun x => s.pixel x y == lit.contains (x, y)

/-! ### Well-formedness: the checks refuse what is ill formed -/

/-- 95_test_vectors.md 2.2: words that match no row of R84. -/
theorem test_wellFormedWord_refuses_zero : wellFormedWord 0x0000 = false := by decide
theorem test_wellFormedWord_refuses_01E0 : wellFormedWord 0x01E0 = false := by decide
theorem test_wellFormedWord_refuses_5011 : wellFormedWord 0x5011 = false := by decide
theorem test_wellFormedWord_refuses_8018 : wellFormedWord 0x8018 = false := by decide
theorem test_wellFormedWord_refuses_E09F : wellFormedWord 0xE09F = false := by decide
theorem test_wellFormedWord_refuses_F075 : wellFormedWord 0xF075 = false := by decide
theorem test_wellFormedWord_accepts_00E0 : wellFormedWord 0x00E0 = true := by decide

/-- 10_state.md R38, R39: a key number above 15 is outside the contract. -/
theorem test_event_refuses_setHeld_16 : (Event.setHeld 16 true).wellFormed = false := by decide
theorem test_event_refuses_notifyPressed_255 : (Event.notifyPressed 255).wellFormed = false := by decide
theorem test_event_accepts_key_15 :
    (Event.setHeld 15 true).wellFormed = true ∧ (Event.notifyPressed 15).wellFormed = true := by decide

/-- The fields' types leave no instruction ill formed; the largest fields are accepted. -/
theorem test_instr_accepts_largest_fields :
    (Instr.drw 0xF 0xF 0xF).wellFormed = true ∧ (Instr.jp 0xFFF).wellFormed = true ∧
    (Instr.rnd 0xF 0xFF).wellFormed = true := by decide

/-! ### Decoding: a word of every row, written out from 30_encoding.md R82 and R84 -/

theorem test_decode_format_Z :
    decodeTableWord 16 0b0000000011100000 = some .cls ∧ decodeTableWord 16 0b0000000011101110 = some .ret := by decide

theorem test_decode_format_A :
    decodeTableWord 16 0b0001001000110100 = some (.jp 0x234) ∧ decodeTableWord 16 0b0010001000001110 = some (.call 0x20E) ∧
    decodeTableWord 16 0b1010000100100011 = some (.ldI 0x123) ∧
    decodeTableWord 16 0b1011111111111111 = some (.jpV0 0xFFF) := by decide

theorem test_decode_format_K :
    decodeTableWord 16 0b0011000000010010 = some (.seImm 0x0 0x12) ∧
    decodeTableWord 16 0b0100101000010010 = some (.sneImm 0xA 0x12) ∧
    decodeTableWord 16 0b0110000010101011 = some (.ldImm 0x0 0xAB) ∧
    decodeTableWord 16 0b0111111100000010 = some (.addImm 0xF 0x02) ∧
    decodeTableWord 16 0b1100000000001111 = some (.rnd 0x0 0x0F) := by decide

theorem test_decode_format_R_skips_and_logic :
    decodeTableWord 16 0b0101000000010000 = some (.seReg 0x0 0x1) ∧
    decodeTableWord 16 0b1001000000010000 = some (.sneReg 0x0 0x1) ∧
    decodeTableWord 16 0b1000111011110000 = some (.ldReg 0xE 0xF) ∧
    decodeTableWord 16 0b1000000000010001 = some (.orReg 0x0 0x1) ∧
    decodeTableWord 16 0b1000000000010010 = some (.andReg 0x0 0x1) ∧
    decodeTableWord 16 0b1000000000010011 = some (.xorReg 0x0 0x1) := by decide

theorem test_decode_format_R_arithmetic :
    decodeTableWord 16 0b1000000000010100 = some (.addReg 0x0 0x1) ∧
    decodeTableWord 16 0b1000000000010101 = some (.subReg 0x0 0x1) ∧
    decodeTableWord 16 0b1000111100010110 = some (.shr 0xF 0x1) ∧
    decodeTableWord 16 0b1000111100010111 = some (.subn 0xF 0x1) ∧
    decodeTableWord 16 0b1000000000011110 = some (.shl 0x0 0x1) := by decide

theorem test_decode_draw : decodeTableWord 16 0b1101000100100101 = some (.drw 0x1 0x2 0x5) := by decide

theorem test_decode_format_X_keys_and_timers :
    decodeTableWord 16 0b1110000110011110 = some (.skp 0x1) ∧ decodeTableWord 16 0b1110000010100001 = some (.sknp 0x0) ∧
    decodeTableWord 16 0b1111001000000111 = some (.ldVxDt 0x2) ∧ decodeTableWord 16 0b1111000100001010 = some (.ldVxK 0x1) ∧
    decodeTableWord 16 0b1111000100010101 = some (.ldDtVx 0x1) ∧
    decodeTableWord 16 0b1111000100011000 = some (.ldStVx 0x1) := by decide

theorem test_decode_format_X_index :
    decodeTableWord 16 0b1111000000011110 = some (.addI 0x0) ∧ decodeTableWord 16 0b1111000000101001 = some (.ldF 0x0) ∧
    decodeTableWord 16 0b1111000000110011 = some (.ldB 0x0) ∧ decodeTableWord 16 0b1111001101010101 = some (.storeRegs 0x3) ∧
    decodeTableWord 16 0b1111111101100101 = some (.loadRegs 0xF) := by decide

/-- 95_test_vectors.md 2.2. -/
theorem test_decode_rejects :
    decode [0x80, 0x18] = .error (.unrecognised 0x8018) ∧ decode [0x90, 0x11] = .error (.unrecognised 0x9011) ∧
    decode [0x00, 0x00] = .error (.unrecognised 0x0000) ∧ decode [0x60] = .error .truncated := by
  refine ⟨rfl, rfl, rfl, rfl⟩

/-! ### Control transfer (95_test_vectors.md 2.1) -/

/-- F2. -/
theorem test_jp : holds (firstStep State.reset 0x1FFF) (fun t => t.pc == 0x0FFF) = true := by decide
/-- F5. -/
theorem test_jpV0 : holds (firstStep (reg 0 0xFF) 0xBFFF) (fun t => t.pc == 0x10FE) = true := by decide
/-- F6. -/
theorem test_call : holds (execOpcode 0x220E (State.reset.jumpTo 0x204))
    (fun t => t.stack[0] == 0x0204 && t.sp == 1 && t.pc == 0x020E) = true := by decide
/-- F9. -/
theorem test_call_overflow : holds (firstStep (withSp 16 0x0123) 0x2300)
    (fun t => t.pc == 0x0202 && t.sp == 16 && t.stack[15] == 0x0123 &&
      t.diags == [⟨.stackOverflow, 0x2300, 0x0200⟩]) = true := by decide
/-- F7. -/
theorem test_ret : holds (execOpcode 0x00EE ((withSp 1 0x0204).jumpTo 0x210))
    (fun t => t.sp == 0 && t.pc == 0x0206 && t.stack[0] == 0x0204) = true := by decide
/-- F8. -/
theorem test_ret_underflow : holds (firstStep State.reset 0x00EE)
    (fun t => t.pc == 0x0202 && t.sp == 0 && t.diags == [⟨.stackUnderflow, 0x00EE, 0x0200⟩]) = true := by decide
/-- F10, F20. -/
theorem test_seImm : holds (firstStep (reg 0 0x12) 0x3012) (fun t => t.pc == 0x0204) = true := by decide
theorem test_seImm_at_end : holds (execOpcode 0x3000 (State.reset.jumpTo 0x0FFE)) (fun t => t.pc == 0x1002) = true := by decide
/-- F12, F13. -/
theorem test_sneImm : holds (firstStep (reg 0 0x13) 0x4012) (fun t => t.pc == 0x0204) = true := by decide
theorem test_sneImm_equal : holds (firstStep (reg 0 0x12) 0x4012) (fun t => t.pc == 0x0202) = true := by decide
/-- F15, F16. -/
theorem test_seReg : holds (firstStep (regs01 0x07 0x08) 0x5010) (fun t => t.pc == 0x0202) = true := by decide
theorem test_seReg_same : holds (firstStep State.reset 0x5000) (fun t => t.pc == 0x0204) = true := by decide
/-- F17, F19. -/
theorem test_sneReg : holds (firstStep (regs01 0x07 0x08) 0x9010) (fun t => t.pc == 0x0204) = true := by decide
theorem test_sneReg_same : holds (firstStep State.reset 0x9000) (fun t => t.pc == 0x0202) = true := by decide
/-- F21: a fetch at 0x0FFF takes its low byte from 0x000; the new PC is not reduced. -/
theorem test_fetch_wraps : holds (step ((State.reset.jumpTo 0x0FFF).placeOpcode 0x6123))
    (fun t => t.getV 1 == 0x23 && t.pc == 0x1001) = true := by decide
/-- F22: a fetch at 0x1000 reads MEM[000], MEM[001]. -/
theorem test_fetch_reduces : holds (step (((State.reset.memWrite 0 0x62).memWrite 1 0x34).jumpTo 0x1000))
    (fun t => t.getV 2 == 0x34 && t.pc == 0x1002) = true := by decide

/-! ### Unrecognised opcodes (95_test_vectors.md 2.2) -/

theorem test_undef : holds (firstStep State.reset 0x8018)
    (fun t => t.pc == 0x0202 && t.diags == [⟨.unknownOpcode, 0x8018, 0x0200⟩]) = true := by decide

/-! ### Load and ALU (95_test_vectors.md 2.3) -/

/-- A1, A2. -/
theorem test_ldImm : holds (firstStep State.reset 0x60AB) (fun t => t.getV 0 == 0xAB && t.pc == 0x0202) = true := by decide
theorem test_ldImm_VF : holds (firstStep State.reset 0x6F07) (fun t => t.getV VF == 0x07) = true := by decide
/-- A3, A4b. -/
theorem test_addImm : holds (firstStep (reg 0 0xFF) 0x7001) (fun t => t.getV 0 == 0 && t.getV VF == 0) = true := by decide
theorem test_addImm_VF : holds (firstStep (reg VF 0xFF) 0x7F02) (fun t => t.getV VF == 1) = true := by decide
/-- A4c. -/
theorem test_ldReg : holds (firstStep (regs01 0 0x77) 0x8010) (fun t => t.getV 0 == 0x77) = true := by decide
/-- A4d, A4e, A4f, A4g. -/
theorem test_orReg : holds (firstStep ((regs01 0xF0 0x3C).setV VF 1) 0x8011)
    (fun t => t.getV 0 == 0xFC && t.getV VF == 1) = true := by decide
theorem test_andReg : holds (firstStep ((regs01 0xF0 0x3C).setV VF 1) 0x8012)
    (fun t => t.getV 0 == 0x30 && t.getV VF == 1) = true := by decide
theorem test_xorReg : holds (firstStep ((regs01 0xF0 0x3C).setV VF 1) 0x8013)
    (fun t => t.getV 0 == 0xCC && t.getV VF == 1) = true := by decide
theorem test_xorReg_same : holds (firstStep (reg 0 0xA5) 0x8003) (fun t => t.getV 0 == 0) = true := by decide
/-- A5, A9. -/
theorem test_addReg : holds (firstStep (regs01 0xFA 0x0A) 0x8014) (fun t => t.getV 0 == 4 && t.getV VF == 1) = true := by decide
theorem test_addReg_VF : holds (firstStep ((reg VF 0xC8).setV 1 0x64) 0x8F14) (fun t => t.getV VF == 1) = true := by decide
/-- A12, A13. -/
theorem test_subReg : holds (firstStep (regs01 0x05 0x0A) 0x8015)
    (fun t => t.getV 0 == 0xFB && t.getV VF == 0) = true := by decide
theorem test_subReg_equal : holds (firstStep ((regs01 0x07 0x07).setV VF 1) 0x8015)
    (fun t => t.getV 0 == 0 && t.getV VF == 0) = true := by decide
/-- A16, A19. -/
theorem test_shr : holds (firstStep (regs01 0x05 0xAA) 0x8016)
    (fun t => t.getV 0 == 2 && t.getV VF == 1 && t.getV 1 == 0xAA) = true := by decide
theorem test_shr_VF : holds (firstStep (reg VF 0x03) 0x8F16) (fun t => t.getV VF == 1) = true := by decide
/-- A21, A25. -/
theorem test_subn : holds (firstStep (regs01 0x05 0x0A) 0x8017)
    (fun t => t.getV 1 == 5 && t.getV 0 == 5 && t.getV VF == 1) = true := by decide
theorem test_subn_VF : holds (firstStep ((reg VF 0x0A).setV 0 0x03) 0x80F7) (fun t => t.getV VF == 1) = true := by decide
/-- A27, A31. -/
theorem test_shl : holds (firstStep (reg 0 0x81) 0x801E) (fun t => t.getV 0 == 2 && t.getV VF == 1) = true := by decide
theorem test_shl_VF : holds (firstStep (reg VF 0x41) 0x8F1E) (fun t => t.getV VF == 0) = true := by decide

/-! ### Index and memory (95_test_vectors.md 2.4) -/

/-- M1. -/
theorem test_ldI : holds (firstStep State.reset 0xA123) (fun t => t.i == 0x0123) = true := by decide
/-- M4, M5. -/
theorem test_addI : holds (firstStep ((atI 0x0FFF).setV 0 1) 0xF01E) (fun t => t.i == 0x1000 && t.getV VF == 0) = true := by decide
theorem test_addI_wraps : holds (firstStep ((atI 0xFFFF).setV 0 2) 0xF01E) (fun t => t.i == 0x0001) = true := by decide
/-- M8, M10. -/
theorem test_ldF : holds (firstStep (reg 0 0x0A) 0xF029) (fun t => t.i == 0x0032) = true := by decide
theorem test_ldF_whole_byte : holds (firstStep (reg 0 0xFF) 0xF029) (fun t => t.i == 0x04FB) = true := by decide
/-- M12, M13: 234 at the top of memory and of the address range. -/
theorem test_ldB : holds (firstStep ((atI 0x0FFF).setV 0 234) 0xF033)
    (fun t => t.memRead 0xFFF == 2 && t.memRead 0 == 3 && t.memRead 1 == 4) = true := by decide
theorem test_ldB_wraps : holds (firstStep ((atI 0xFFFF).setV 0 234) 0xF033)
    (fun t => t.memRead 0xFFF == 2 && t.memRead 0 == 3 && t.memRead 1 == 4) = true := by decide
/-- M15 (V4 = 0x55 is not stored), M16. -/
theorem test_storeRegs :
    holds (firstStep (((((regs01 0x11 0x22).setV 2 0x33).setV 3 0x44).setV 4 0x55).setI 0x400) 0xF355)
      (fun t => (t.memReadBytes 0x400 5) == [0x11, 0x22, 0x33, 0x44, 0x00] && t.i == 0x400) = true := by decide
theorem test_storeRegs_one : holds (firstStep ((regs01 0x11 0x22).setI 0x400) 0xF055)
    (fun t => (t.memReadBytes 0x400 2) == [0x11, 0x00]) = true := by decide
/-- M19, M20. -/
theorem test_loadRegs_font : holds (firstStep State.reset 0xFF65) (fun t => t.v.toList ==
    [0xF0, 0x90, 0x90, 0x90, 0xF0, 0x20, 0x60, 0x20, 0x20, 0x70, 0xF0, 0x10, 0xF0, 0x80, 0xF0, 0xF0]) = true := by decide
theorem test_loadRegs_own_encoding : holds (firstStep ((atI 0x200).setV 2 0xEE) 0xF165)
    (fun t => t.getV 0 == 0xF1 && t.getV 1 == 0x65 && t.getV 2 == 0xEE) = true := by decide

/-! ### Random (95_test_vectors.md 2.5): the byte is free, its masking is not -/

/-- R3v: a zero mask gives 0, whatever the byte. -/
theorem test_rnd_masked : ∃ t, exec (.rnd 0 0x00) (reg 0 0x09) = .next t ∧ t.getV 0 = 0 ∧ t.draws = 1 :=
  ⟨_, rfl, by simp [State.nextRand], rfl⟩
/-- R1v: a full mask gives the byte itself. -/
theorem test_rnd_whole : ∃ t, exec (.rnd 0 0xFF) State.reset = .next t ∧ t.getV 0 = Config.randByte 0 :=
  ⟨_, rfl, BitVec.and_allOnes⟩

/-! ### Display (95_test_vectors.md 2.6) -/

/-- G16. -/
theorem test_cls : holds (execOpcode 0x00E0 ((reg VF 1).setFb (Framebuffer.flip State.reset.fb 5 5)))
    (fun t => !t.pixel 5 5 && t.getV VF == 1) = true := by decide
/-- G6: a sprite of two rows 11000000 at (63, 31) wraps both ways. -/
theorem test_drw_wraps :
    holds (execOpcode 0xD012 (((regs01 0x3F 0x1F).setI 0x300).memWriteBytes 0x300 [0xC0, 0xC0]))
      (fun t => t.pixel 63 31 && t.pixel 0 31 && t.pixel 63 0 && t.pixel 0 0 && !t.pixel 62 31 && !t.pixel 1 0 &&
        t.getV VF == 0) = true := by decide
/-- G8: one of two sprite bits meets a lit pixel. -/
theorem test_drw_collision :
    holds (execOpcode 0xD011 ((((regs01 5 5).setI 0x300).memWrite 0x300 0xC0).setFb (Framebuffer.flip State.reset.fb 5 5)))
      (fun t => litAre t [5] [(6, 5)] && t.getV VF == 1) = true := by decide

/-! ### Keypad (95_test_vectors.md 2.7) -/

/-- K1, K6. -/
theorem test_skp : holds (firstStep ((reg 0 5).setKey 5 true) 0xE09E) (fun t => t.pc == 0x0204) = true := by decide
theorem test_skp_range : holds (firstStep ((reg 0 0x10).setKey 0 true) 0xE09E)
    (fun t => t.pc == 0x0202 && t.diags == [⟨.keyIndexRange, 0xE09E, 0x0200⟩]) = true := by decide
/-- K3, K7. -/
theorem test_sknp : holds (firstStep ((reg 0 5).setKey 5 true) 0xE0A1) (fun t => t.pc == 0x0202) = true := by decide
theorem test_sknp_range : holds (firstStep ((reg 0 0x10).setKey 0 true) 0xE0A1)
    (fun t => t.pc == 0x0204 && t.diags == [⟨.keyIndexRange, 0xE0A1, 0x0200⟩]) = true := by decide
/-- K14, K11. -/
theorem test_ldVxK_waits : holds (firstStep ((reg 0 9).setKey 4 true) 0xF00A)
    (fun t => t.pc == 0x0200 && t.getV 0 == 9) = true := by decide
theorem test_ldVxK_key_zero : holds (firstStep ((reg VF 9).setSlot 0) 0xFF0A)
    (fun t => t.getV VF == 0 && t.slot == none && t.pc == 0x0202) = true := by decide

/-! ### Timers (95_test_vectors.md 2.8) -/

/-- T6. -/
theorem test_ldVxDt : holds (firstStep (State.reset.setDt 0x3C) 0xF007)
    (fun t => t.getV 0 == 0x3C && t.dt == 0x3C) = true := by decide
/-- T7. -/
theorem test_ldDtVx : holds (firstStep (reg VF 9) 0xFF15) (fun t => t.dt == 9 && t.st == 0) = true := by decide
/-- T2. -/
theorem test_ldStVx : holds (firstStep (reg 1 5) 0xF118) (fun t => t.st == 5 && t.dt == 0) = true := by decide
/-- T9. -/
theorem test_tick : holds (step ((State.reset.setDt 1).setAgenda [.tick])) (fun t => t.dt == 0 && t.st == 0) = true := by decide

/-! ### Reset and a program (95_test_vectors.md Part 3) -/

/-- P1, its RESET and its first step. -/
theorem test_reset_P1 :
    holds (core.run 2 (State.reset.setAgenda [.reset Config.font [0x60, 0x0A, 0x61, 0x05, 0x80, 0x14] []]))
      (fun t => t.getV 0 == 0x0A && t.pc == 0x0202 && t.fetch == 0x6105) = true := by decide +kernel

/-! ### Witnesses: for every obligation with hypotheses, states and operands that meet them -/

/-- EncodeOfDecodeGivesTheWord, DecoderAgreesWithOpcodeTable, OpcodeRowsAreDisjoint: a word that decodes and its row. -/
theorem test_witness_decoded_word :
    decodeOpcode 0x8014 = some (.addReg 0 1) ∧ (⟨0xF00F, 0x8004⟩ : OpcodeRow) ∈ opcodeRows ∧
    (0x8014 : Word16) &&& 0xF00F = 0x8004 := by decide

/-- StepRunsTheDecodedInstruction: both agendas, a next state, and a fault (a CALL with SP = 17). -/
theorem test_witness_step_decodes :
    decodeOpcode (withWord 0x600A).fetch = some (.ldImm 0 0x0A) ∧ (withWord 0x600A).agenda = [] ∧
    ((withWord 0x600A).setAgenda [.step, .tick]).agenda = [.step, .tick] ∧
    holds (exec (.ldImm 0 0x0A) (withWord 0x600A)) (fun _ => true) = true ∧
    faults (exec (.call 0x300) (withSp 17 0)) = true ∧
    decodeOpcode ((withSp 17 0).placeOpcode 0x2300).fetch = some (.call 0x300) := by decide

/-- FetchIsBigEndian: two addresses equal modulo 4096. -/
theorem test_witness_equal_modulo : (0x0FFF : Word16).toNat % 4096 = (0xFFFF : Word16).toNat % 4096 := by decide

/-- UnrecognisedOpcodeOnlyAdvances: an unrecognised opcode at PC; 0x123 is neither 0x0E0 nor 0x0EE. -/
theorem test_witness_unrecognised :
    State.reset.agenda = [] ∧ wellFormedWord State.reset.fetch = false ∧
    (0x123 : Addr12) ≠ 0x0E0 ∧ (0x123 : Addr12) ≠ 0x0EE := by decide

/-- SlotIsEmptyAfterStep: a STEP with the slot full, from both agendas, completes. -/
theorem test_witness_slot_full :
    (State.reset.setSlot 7).agenda = [] ∧ (State.reset.setSlot 7).slot = some 7 ∧
    holds (step (State.reset.setSlot 7)) (fun t => t.slot == none) = true ∧
    holds (step ((State.reset.setSlot 7).setAgenda [.step])) (fun t => t.slot == none) = true := by decide

/-- StepCompletesFromInvariant, StepKeepsInvariant: the invariant at SP = 16 with a listed cell, every kind of event next. -/
theorem test_witness_invariant :
    ((withSp 16 0).memWrite 0x300 1).Inv ∧ (Event.setHeld 15 true).wellFormed = true ∧
    [Event.step, .tick, .setHeld 15 true, .notifyPressed 15, .reset Config.font [1] [⟨0x300, 2⟩]].all
      (fun e => e.wellFormed && holds (step (((withSp 16 0).memWrite 0x300 1).setAgenda [e])) (fun _ => true)) = true := by
  refine ⟨by decide, by decide, by decide⟩

/-- OnlyTheNamedInstructionsWriteSpecialRegisters: DT, ST and I do change, by Fx15, Fx18, Annn, Fx1E and Fx29. -/
theorem test_witness_special_registers :
    holds (exec (.ldDtVx 0) (reg 0 5)) (fun t => t.dt != (reg 0 5).dt) = true ∧
    holds (exec (.ldStVx 0) (reg 0 5)) (fun t => t.st != (reg 0 5).st) = true ∧
    holds (exec (.ldI 0x300) State.reset) (fun t => t.i != State.reset.i) = true ∧
    holds (exec (.addI 0) (reg 0 5)) (fun t => t.i != (reg 0 5).i) = true ∧
    holds (exec (.ldF 0) (reg 0 5)) (fun t => t.i != (reg 0 5).i) = true := by decide

/-- OnlyStoresChangeMemoryOnlyDrawsChangePixels: a byte and a pixel do change. -/
theorem test_witness_memory_and_pixels :
    holds (exec (.ldB 0) ((reg 0 123).setI 0x300)) (fun t => t.memRead 0x302 != 0) = true ∧
    holds (exec (.storeRegs 1) ((regs01 0 7).setI 0x300)) (fun t => t.memRead 0x301 != 0) = true ∧
    holds (exec (.drw 0 0 1) State.reset) (fun t => t.pixel 0 0) = true ∧
    holds (exec .cls (State.reset.setFb (Framebuffer.flip State.reset.fb 5 5))) (fun t => !t.pixel 5 5) = true := by decide

/-- OnlyCallAndReturnMoveTheStack: the last entry changes by a CALL at SP = 15; SP changes by both. -/
theorem test_witness_stack_moves :
    holds (exec (.call 0x300) (withSp 15 0)) (fun t => t.stack[15] != (withSp 15 0).stack[15] && t.sp == 16) = true ∧
    holds (exec .ret (withSp 16 0)) (fun t => t.sp == 15) = true := by decide

/-- RegistersChangeOnlyAsDestinationOrFlag: a destination and the flag change. -/
theorem test_witness_registers_change :
    holds (exec (.addReg 0 1) (regs01 0xFA 0x0A))
      (fun t => t.getV 0 != (regs01 0xFA 0x0A).getV 0 && t.getV VF != (regs01 0xFA 0x0A).getV VF) = true := by decide

/-- FlagWritersLeaveZeroOrOne: the six flag writers. -/
theorem test_witness_flag_writers :
    WritesFlag (.addReg 0xF 0) ∧ WritesFlag (.subReg 0xF 0) ∧ WritesFlag (.shr 0xF 0) ∧ WritesFlag (.subn 0 0xF) ∧
    WritesFlag (.shl 0xF 0) ∧ WritesFlag (.drw 0xF 0xF 1) := by simp [WritesFlag]

/-- DiagnosticsAreExactlyTheTable: a STEP that records something and one that records nothing. -/
theorem test_witness_diagnostics :
    (withWord 0x8018).expectedDiags = [⟨.unknownOpcode, 0x8018, 0x0200⟩] ∧ (withWord 0x600A).expectedDiags = [] ∧
    ((withSp 16 0).placeOpcode 0x2300).expectedDiags = [⟨.stackOverflow, 0x2300, 0x0200⟩] ∧
    ((reg 0 16).placeOpcode 0xE09E).expectedDiags = [⟨.keyIndexRange, 0xE09E, 0x0200⟩] ∧
    ((reg 0 15).placeOpcode 0xE0A1).expectedDiags = [] ∧
    holds (step (withWord 0x8018)) (fun t =>
      State.diagPort true (withWord 0x8018) t == some ⟨1, 0x8018, 0x0200⟩) = true := by decide

/-- TickCountsDown, TicksNeverUnderflow: six ticks next, DT = 5, ST = 0 (95_test_vectors.md T3, T9). -/
theorem test_witness_ticks :
    ((State.reset.setDt 5).setAgenda (List.replicate 6 .tick ++ [.step])).agenda = .tick :: (List.replicate 5 .tick ++ [.step]) ∧
    holds (core.run 6 ((State.reset.setDt 5).setAgenda (List.replicate 6 .tick ++ [.step])))
      (fun t => t.dt == 0 && t.st == 0 && t.agenda == [.step]) = true := by decide

/-- InputEventsWriteOneKeyOrTheSlot: key 15 is accepted, 16 refused, for both events. -/
theorem test_witness_keys_15_and_16 :
    holds (step (State.reset.setAgenda [.setHeld 15 true])) (fun t => t.getKey 15) = true ∧
    refuses (step (State.reset.setAgenda [.setHeld 16 true])) = true ∧
    holds (step (State.reset.setAgenda [.notifyPressed 15])) (fun t => t.slot == some 15) = true ∧
    refuses (step (State.reset.setAgenda [.notifyPressed 16])) = true := by decide

/-- KeyWaitReceivesTheLastPress: K13. -/
theorem test_witness_last_press :
    decodeOpcode (withWord 0xF00A).fetch = some (.ldVxK 0) ∧
    holds (core.run 3 ((withWord 0xF00A).setAgenda [.notifyPressed 2, .notifyPressed 9, .step]))
      (fun t => t.getV 0 == 9) = true := by decide

/-- PressBeforeAnotherInstructionIsLost: K12, its first step. -/
theorem test_witness_lost_press :
    decodeOpcode (withWord 0x6001).fetch = some (.ldImm 0 0x01) ∧
    holds (core.run 2 ((withWord 0x6001).setAgenda [.notifyPressed 3, .step]))
      (fun t => t.getV 0 == 1 && t.slot == none) = true ∧
    holds (step ((withWord 0x6001).setAgenda [.step])) (fun _ => true) = true := by decide

/-- A clock cycle with a press, a held key, STEP and TICK; and one under reset. -/
def busyCycle : CycleInputs := ⟨false, some ⟨0x300, 1⟩, some 7, State.reset.key.set 7 true, true, true⟩
def resetCycle (l : LoadByte) : CycleInputs := ⟨true, some l, some 7, State.reset.key, true, true⟩

/-- ClockCycleOrder: both clauses; P5 in one cycle: the wait ends and the timer goes down. -/
theorem test_witness_cycle :
    (withWord 0xF10A).agenda = [] ∧ busyCycle.rst = false ∧ busyCycle.press = some 7 ∧ busyCycle.stepEn = true ∧
    busyCycle.tickEn = true ∧ (resetCycle ⟨0x200, 0x60⟩).rst = true ∧
    holds (core.run busyCycle.events.length (((withWord 0xF10A).setDt 7).present Config.font [busyCycle]))
      (fun t => t.getV 1 == 7 && t.getKey 7 && t.dt == 6 && t.pc == 0x0202) = true := by decide

/-- LoadPortWritesMemoryUnderReset: two cycles under reset load an opcode at 0x200, and the cycle after them executes it. -/
theorem test_witness_load_port :
    [resetCycle ⟨0x200, 0x60⟩, resetCycle ⟨0x201, 0x0A⟩].all (·.rst) = true ∧ busyCycle.rst = false ∧
    holds (core.run (1 + busyCycle.events.length)
        (State.reset.present Config.font [resetCycle ⟨0x200, 0x60⟩, resetCycle ⟨0x201, 0x0A⟩, busyCycle]))
      (fun t => t.getV 0 == 0x0A && t.pc == 0x0202 && t.memRead 0x300 == 0) = true := by decide +kernel

/-- EveryInfiniteEventSequenceIsARun, TimersReachZeroWhenTicksKeepComing: from reset with nothing but ticks, the run that
stays there. -/
theorem test_witness_infinite_run :
    State.reset.Inv ∧ (∀ _ : Nat, Event.tick.wellFormed = true) ∧ IsRun (fun _ => .tick) (fun _ => State.reset) ∧
    TicksKeepComing (fun _ => .tick) ∧ (∀ (_ : Nat) (x : RegIdx), Event.tick = .step →
      decodeOpcode State.reset.fetch ≠ some (.ldDtVx x)) ∧ (∀ (_ : Nat) (x : RegIdx), Event.tick = .step →
      decodeOpcode State.reset.fetch ≠ some (.ldStVx x)) :=
  ⟨by decide, fun _ => rfl, fun _ => rfl, (fun n => ⟨n, Nat.le_refl n, rfl⟩), by simp, by simp⟩

/-- A FONT other than the default. -/
def zeroFont : Font := Vector.replicate 80 0

/-- ResetVector, ResetLoadsFontAndRom: the event RESET is next, with another FONT and a byte on the load port. -/
theorem test_witness_reset :
    (State.reset.setAgenda [.reset zeroFont [0x60, 0x0A] []]).agenda = [.reset zeroFont [0x60, 0x0A] []] ∧
    holds (step ((reg 0 5).setAgenda [.reset zeroFont [0x60, 0x0A] [⟨0x0FF, 7⟩]]))
      (fun t => t.fetch == 0x600A && t.getV 0 == 0 && t.memRead 0 == 0 && t.memRead 0x0FF == 7) = true := by decide +kernel

/-- StoredInstructionIsFetchedNext: T-SMC, its fourth step. -/
theorem test_witness_self_modifying :
    1 ≤ (1 : RegIdx).toNat ∧ ((regs01 0x63 0x99).setI 0x202).i = ((regs01 0x63 0x99).setI 0x202).pc + 2 ∧
    holds (exec (.storeRegs 1) ((regs01 0x63 0x99).setI 0x202)) (fun t => t.fetch == 0x6399) = true := by decide

/-- CallPushesItsAddress, ReturnPopsCallAddress: each clause at the bounds of its range. -/
theorem test_witness_stack_ranges :
    (withSp 0 0).sp.toNat < 16 ∧ (withSp 15 0).sp.toNat < 16 ∧ (withSp 16 0).sp.toNat = 16 ∧ 16 < (withSp 17 0).sp.toNat ∧
    (0 < (withSp 1 0).sp.toNat ∧ (withSp 1 0).sp.toNat ≤ 16) ∧ (0 < (withSp 16 0).sp.toNat ∧ (withSp 16 0).sp.toNat ≤ 16) ∧
    (withSp 0 0).sp.toNat = 0 ∧ faults (exec .ret (withSp 17 0)) = true ∧
    holds (exec (.call 0x300) (withSp 15 0)) (fun t => t.sp == 16 && t.pc == 0x300) = true := by decide

/-- NestedCallsReturn: sixteen calls on the empty stack (95_test_vectors.md S10), one call at SP = 15. -/
theorem test_witness_nested_calls :
    List.replicate 16 (0x204 : Addr12) ≠ [] ∧ State.reset.sp.toNat + (List.replicate 16 (0x204 : Addr12)).length ≤ 16 ∧
    (withSp 15 0).sp.toNat + [(0x204 : Addr12)].length ≤ 16 ∧
    holds (execAll (List.replicate 16 (.call 0x204) ++ List.replicate 16 .ret) State.reset)
      (fun t => t.pc == 0x0202 && t.sp == 0) = true := by decide

/-- IdleLoopIsFixed: F3. -/
theorem test_witness_idle : (withWord 0x1200).Idle ∧ (withWord 0x1200).agenda = [] := ⟨⟨0x200, by decide, rfl⟩, rfl⟩

/-- AddSetsCarry, SubtractSetsGreater, ReverseSubtractWritesVy, ShiftsMoveOneBit, DrawTwiceRestores: a register that is
not VF. -/
theorem test_witness_not_VF : (0 : RegIdx) ≠ VF ∧ (1 : RegIdx) ≠ VF ∧ (0xE : RegIdx) ≠ VF := by decide

/-- StoreRegisters, LoadRegisters: the first and the last register of Fx55 and Fx65, with x = 0 and x = F. -/
theorem test_witness_register_ranges :
    (0 : RegIdx).toNat ≤ (0 : RegIdx).toNat ∧ (0xF : RegIdx).toNat ≤ (0xF : RegIdx).toNat ∧
    ¬ (1 : RegIdx).toNat ≤ (0 : RegIdx).toNat := by decide

/-- StoreThenLoadRestoresRegisters: a later state with the same memory and I whose registers have changed. -/
theorem test_witness_store_then_load :
    holds (exec (.storeRegs 1) ((regs01 0x11 0x22).setI 0x400)) (fun t =>
      holds (exec (.loadRegs 1) ((t.setV 0 0).setV 1 0)) (fun w => w.getV 0 == 0x11 && w.getV 1 == 0x22)) = true ∧
    ((atI 0x400).setV 0 0).mem = (atI 0x400).mem ∧ ((atI 0x400).setV 0 0).i = 0x400 := by decide

/-- RandomIsMasked: a bit the mask clears. -/
theorem test_witness_mask_bit : (0x0F : Byte).getLsbD 4 = false := by decide

/-- DrawFlipsSpritePixels, DrawTwiceRestores: at reset I points at the glyph 0, whose first row is 11110000: the sprite of
D001 covers (0, 0) and not (4, 0). -/
theorem test_witness_sprite : SpriteCovers State.reset 0 0 1 0 0 ∧ ¬ SpriteCovers State.reset 0 0 1 4 0 := by
  unfold SpriteCovers
  decide

/-- KeySkips: key 15 is in range, 16 is not. -/
theorem test_witness_key_range : ((reg 0 15).getV 0).toNat < 16 ∧ 16 ≤ ((reg 0 16).getV 0).toNat := by decide

/-- KeyWaitBlocksOrDelivers: the slot empty, and full with key 0. -/
theorem test_witness_slot : State.reset.slot = none ∧ (State.reset.setSlot 0).slot = some 0 := by decide

end Sys2Proof.Tests
end

section
/-! PROOF. Frames of a change of PC, and the jump 1nnn (41_flow.md R120). -/

namespace Sys2Proof.Machine

/-! ### Frames: PC is no location -/

theorem Loc.same_refl (l : Loc) (s : State) : l.Same s s := by
  cases l <;> rfl

theorem keepsAllBut_refl (changed : Loc → Prop) (s : State) : KeepsAllBut changed s s :=
  fun l _ => l.same_refl s

/-- A jump after a change of state touches no further location. -/
@[simp] theorem Loc.same_jumpTo (l : Loc) (s u : State) (a : Word16) : l.Same s (u.jumpTo a) ↔ l.Same s u := by
  cases l <;> rfl

@[simp] theorem keepsAllBut_jumpTo (changed : Loc → Prop) (s u : State) (a : Word16) :
    KeepsAllBut changed s (u.jumpTo a) ↔ KeepsAllBut changed s u := by
  simp only [KeepsAllBut, Loc.same_jumpTo]

/-! ### The address operand nnn (30_encoding.md R83) -/

@[simp] theorem toNat_zextAddr (nnn : Addr12) : (zextAddr nnn).toNat = nnn.toNat :=
  BitVec.toNat_setWidth_of_le (by decide)

theorem toNat_zextAddr_le (nnn : Addr12) : (zextAddr nnn).toNat ≤ 0x0FFF := by
  rw [toNat_zextAddr]
  exact Nat.le_of_lt_succ nnn.isLt

/-! ### JP nnn -/

theorem exec_jp (nnn : Addr12) (s : State) : exec (.jp nnn) s = .next (s.jumpTo (zextAddr nnn)) := rfl

/-- Settles O31: the jump lands on the zero-extended operand, and a change of PC alone keeps every location. -/
theorem jumpGoesToAddress : Obligations.JumpGoesToAddress := fun nnn s =>
  ⟨s.jumpTo (zextAddr nnn), exec_jp nnn s, toNat_zextAddr nnn, toNat_zextAddr_le nnn,
    (keepsAllBut_jumpTo _ s s _).2 (keepsAllBut_refl _ s)⟩

end Sys2Proof.Machine
end

section
/-! PROOF. Frame of a register write, and the two immediates 6xkk and 7xkk (42_load_alu.md R140, R141). -/

namespace Sys2Proof.Machine

/-! ### Frames: the advance and a register write -/

/-- The uniform advance after a change of state touches no further location. -/
@[simp] theorem keepsAllBut_advance (changed : Loc → Prop) (s u : State) :
    KeepsAllBut changed s u.advance ↔ KeepsAllBut changed s u :=
  keepsAllBut_jumpTo changed s u (u.pc + 2)

/-- A register write after a change of state touches that register and no further location. -/
theorem Loc.same_setV_of_ne {l : Loc} {r : RegIdx} (h : l ≠ .reg r) (s u : State) (b : Byte) :
    l.Same s (u.setV r b) ↔ l.Same s u := by
  cases l with
  | reg q =>
    have hq : q ≠ r := fun e => h (congrArg Loc.reg e)
    simp only [Loc.Same, State.getV_setV_of_ne u hq]
  | _ => rfl

theorem keepsAllBut_setV {changed : Loc → Prop} {r : RegIdx} (h : changed (.reg r)) (s u : State) (b : Byte) :
    KeepsAllBut changed s (u.setV r b) ↔ KeepsAllBut changed s u :=
  forall₂_congr fun l hl => Loc.same_setV_of_ne (fun e : l = .reg r => hl (e ▸ h)) s u b

/-- The frame of an instruction whose one effect is to write Vx. -/
theorem keepsAllBut_setV_advance (x : RegIdx) (b : Byte) (s : State) :
    KeepsAllBut (fun l => l = .reg x) s (s.setV x b).advance := by
  rw [keepsAllBut_advance, keepsAllBut_setV (changed := fun l => l = .reg x) rfl]
  exact keepsAllBut_refl _ s

/-! ### LD Vx, kk and ADD Vx, kk -/

theorem exec_ldImm (x : RegIdx) (kk : Byte) (s : State) : exec (.ldImm x kk) s = .next (s.setV x kk).advance := rfl

theorem exec_addImm (x : RegIdx) (kk : Byte) (s : State) :
    exec (.addImm x kk) s = .next (s.setV x (s.getV x + kk)).advance := rfl

/-- Settles O38: the register written reads kk, and writing it is the one effect beside the advance. -/
theorem loadImmediate : Obligations.LoadImmediate := fun x kk s =>
  ⟨(s.setV x kk).advance, exec_ldImm x kk s, State.getV_setV_same s x kk, rfl, keepsAllBut_setV_advance x kk s⟩

/-- Settles O39: the register written reads the 8-bit sum, and no flag is written, since writing Vx is the one effect
beside the advance. -/
theorem addImmediateWrapsWithoutFlag : Obligations.AddImmediateWrapsWithoutFlag := fun x kk s => by
  refine ⟨(s.setV x (s.getV x + kk)).advance, exec_addImm x kk s, ?sum, rfl, keepsAllBut_setV_advance x _ s⟩
  case sum => rw [State.advance_getV, State.getV_setV_same, BitVec.toNat_add]

end Sys2Proof.Machine
end

section
/-! PROOF. Frame of a write of I, and the load Annn (43_index_memory.md R160). -/

namespace Sys2Proof.Machine

/-! ### Frames: a write of I -/

/-- A write of I after a change of state touches no further location. -/
theorem Loc.same_setI_of_ne {l : Loc} (h : l ≠ .index) (s u : State) (a : Word16) :
    l.Same s (u.setI a) ↔ l.Same s u := by
  cases l with
  | index => exact absurd rfl h
  | _ => rfl

theorem keepsAllBut_setI {changed : Loc → Prop} (h : changed .index) (s u : State) (a : Word16) :
    KeepsAllBut changed s (u.setI a) ↔ KeepsAllBut changed s u :=
  forall₂_congr fun l hl => Loc.same_setI_of_ne (fun e : l = .index => hl (e ▸ h)) s u a

/-- The frame of an instruction whose one effect is to write I. -/
theorem keepsAllBut_setI_advance (a : Word16) (s : State) :
    KeepsAllBut (fun l => l = .index) s (s.setI a).advance := by
  rw [keepsAllBut_advance, keepsAllBut_setI (changed := fun l => l = .index) rfl]
  exact keepsAllBut_refl _ s

/-! ### LD I, nnn -/

theorem exec_ldI (nnn : Addr12) (s : State) : exec (.ldI nnn) s = .next (s.setI (zextAddr nnn)).advance := rfl

/-- Settles O45: I holds the zero-extended operand, and writing it is the one effect beside the advance. -/
theorem loadIndex : Obligations.LoadIndex := fun nnn s =>
  ⟨(s.setI (zextAddr nnn)).advance, exec_ldI nnn s, toNat_zextAddr nnn, rfl, keepsAllBut_setI_advance _ s⟩

end Sys2Proof.Machine
end

section
/-! PROOF. Frame of a change of the framebuffer, and the clear 00E0 (45_display.md R185). -/

namespace Sys2Proof.Machine

/-! ### Frames: a change of the framebuffer -/

@[simp] theorem State.setFb_pixel (s : State) (fb : Framebuffer) (x : Fin 64) (y : Fin 32) :
    (s.setFb fb).pixel x y = Framebuffer.get fb x y := rfl

/-- A change of the framebuffer after a change of state touches no location but the pixels. -/
theorem Loc.same_setFb_of_not_pixel {l : Loc} (h : ¬ ∃ x y, l = .pixel x y) (s u : State) (fb : Framebuffer) :
    l.Same s (u.setFb fb) ↔ l.Same s u := by
  cases l with
  | pixel x y => exact absurd ⟨x, y, rfl⟩ h
  | _ => rfl

theorem keepsAllBut_setFb {changed : Loc → Prop} (h : ∀ x y, changed (.pixel x y)) (s u : State) (fb : Framebuffer) :
    KeepsAllBut changed s (u.setFb fb) ↔ KeepsAllBut changed s u :=
  forall₂_congr fun _ hl =>
    Loc.same_setFb_of_not_pixel (fun ⟨x, y, e⟩ => hl (e ▸ h x y)) s u fb

/-- The frame of an instruction whose one effect is to change the framebuffer. -/
theorem keepsAllBut_setFb_advance (fb : Framebuffer) (s : State) :
    KeepsAllBut (fun l => ∃ x y, l = .pixel x y) s (s.setFb fb).advance := by
  rw [keepsAllBut_advance, keepsAllBut_setFb fun x y => ⟨x, y, rfl⟩]
  exact keepsAllBut_refl _ s

/-! ### CLS -/

theorem exec_cls (s : State) : exec .cls s = .next (s.setFb Framebuffer.blank).advance := rfl

/-- Settles O52: every pixel of the blank framebuffer reads 0, and VF is no pixel, so the frame of a change of the
framebuffer keeps it with everything else. -/
theorem clearScreen : Obligations.ClearScreen := fun s => by
  refine ⟨(s.setFb Framebuffer.blank).advance, exec_cls s, ?blank, rfl, keepsAllBut_setFb_advance _ s⟩
  case blank =>
    intro x y
    rw [State.advance_pixel, State.setFb_pixel, Framebuffer.get_blank]

end Sys2Proof.Machine
end

section
/-! PROOF. Frame of a cleared key-wait slot, and the key wait Fx0A (46_keypad.md R203, R206). -/

namespace Sys2Proof.Machine

/-! ### Frames: the slot cleared -/

/-- Clearing the slot after a change of state touches no further location. -/
theorem Loc.same_clearSlot_of_ne {l : Loc} (h : l ≠ .slot) (s u : State) :
    l.Same s u.clearSlot ↔ l.Same s u := by
  cases l with
  | slot => exact absurd rfl h
  | _ => rfl

theorem keepsAllBut_clearSlot {changed : Loc → Prop} (h : changed .slot) (s u : State) :
    KeepsAllBut changed s u.clearSlot ↔ KeepsAllBut changed s u :=
  forall₂_congr fun l hl => Loc.same_clearSlot_of_ne (fun e : l = .slot => hl (e ▸ h)) s u

/-- The frame of an instruction whose effects are to write Vx and to clear the slot. -/
theorem keepsAllBut_setV_clearSlot_advance (x : RegIdx) (b : Byte) (s : State) :
    KeepsAllBut (fun l => l = .reg x ∨ l = .slot) s (s.setV x b).clearSlot.advance := by
  rw [keepsAllBut_advance, keepsAllBut_clearSlot (.inr rfl), keepsAllBut_setV (.inl rfl)]
  exact keepsAllBut_refl _ s

/-! ### The number of a key (R206) -/

@[simp] theorem toNat_zextKey (k : Nibble) : (zextKey k).toNat = k.toNat :=
  BitVec.toNat_setWidth_of_le (by decide)

/-! ### LD Vx, K -/

theorem exec_ldVxK_of_slot_none {s : State} (h : s.slot = none) (x : RegIdx) :
    exec (.ldVxK x) s = .next (s.jumpTo s.pc) := by
  simp only [exec, execLdVxK, h]

theorem exec_ldVxK_of_slot_some {s : State} {k : Nibble} (h : s.slot = some k) (x : RegIdx) :
    exec (.ldVxK x) s = .next (s.setV x (zextKey k)).clearSlot.advance := by
  simp only [exec, execLdVxK, h]

/-- Settles O56: with the slot empty the instruction is a jump to its own PC, and a change of PC alone keeps every
location; with a key, writing Vx and clearing the slot are the only effects beside the advance. -/
theorem keyWaitBlocksOrDelivers : Obligations.KeyWaitBlocksOrDelivers := by
  refine fun x s => ⟨fun hwait => ?wait, fun k hkey => ?deliver⟩
  case wait =>
    exact ⟨s.jumpTo s.pc, exec_ldVxK_of_slot_none hwait x, rfl,
      (keepsAllBut_jumpTo _ s s _).2 (keepsAllBut_refl _ s)⟩
  case deliver =>
    refine ⟨(s.setV x (zextKey k)).clearSlot.advance, exec_ldVxK_of_slot_some hkey x, ?value, rfl, rfl,
      keepsAllBut_setV_clearSlot_advance x _ s⟩
    case value =>
      rw [State.advance_getV, State.clearSlot_getV, State.getV_setV_same, toNat_zextKey]

end Sys2Proof.Machine
end

section
/-! PROOF. The decoder and the encoder are inverse to each other, and the decoder is the opcode table
(30_encoding.md R80 to R88). -/

namespace Sys2Proof

/-! ### Decoding an encoded instruction -/

/-- Every encoded instruction decodes to itself: the family digit selects the arm, then `n` or `kk`, and the fields of
the encoded opcode are the operands. -/
theorem decodeOpcode_encode (i : Instr) : decodeOpcode (encode i) = some i := by
  cases i with
  | cls | ret => simp [encode, decodeOpcode, decode0]
  | jp | call | ldI | jpV0 => simp [encode, decodeOpcode]
  | seImm | sneImm | ldImm | addImm | rnd => simp [encode, decodeOpcode]
  | seReg | sneReg | drw => simp [encode, decodeOpcode]
  | ldReg | orReg | andReg | xorReg | addReg | subReg | shr | subn | shl => simp [encode, decodeOpcode, decode8]
  | skp | sknp => simp [encode, decodeOpcode, decodeE]
  | ldVxDt | ldVxK | ldDtVx | ldStVx | addI | ldF | ldB | storeRegs | loadRegs =>
    simp [encode, decodeOpcode, decodeF]

/-- Settles O2: the two bytes join to the encoded opcode, which decodes to the instruction. -/
theorem decodeOfEncodeGivesTheInstruction : Obligations.DecodeOfEncodeGivesTheInstruction := fun i rest => by
  simp only [encodeBytes, List.cons_append, List.nil_append, decode, opcodeOfBytes_hi_lo, decodeOpcode_encode]

/-! ### Encoding a decoded instruction -/

variable {w : Word16} {i : Instr}

theorem formatA_of_op {op : Nibble} (hop : fieldOp w = op) : formatA op (fieldNNN w) = w := by
  rw [← hop, formatA_fields]

theorem formatA_of_op_nnn {op : Nibble} {nnn : Addr12} (hop : fieldOp w = op) (hn : fieldNNN w = nnn) :
    formatA op nnn = w := by
  rw [← hn, formatA_of_op hop]

theorem formatK_of_op {op : Nibble} (hop : fieldOp w = op) : formatK op (fieldX w) (fieldKK w) = w := by
  rw [← hop, formatK_fields]

theorem formatK_of_op_kk {op : Nibble} {kk : Byte} (hop : fieldOp w = op) (hk : fieldKK w = kk) :
    formatK op (fieldX w) kk = w := by
  rw [← hk, formatK_of_op hop]

theorem opcodeOfDigits_of_op {op : Nibble} (hop : fieldOp w = op) :
    opcodeOfDigits op (fieldX w) (fieldY w) (fieldN w) = w := by
  rw [← hop, opcodeOfDigits_fields]

theorem opcodeOfDigits_of_op_n {op n : Nibble} (hop : fieldOp w = op) (hn : fieldN w = n) :
    opcodeOfDigits op (fieldX w) (fieldY w) n = w := by
  rw [← hn, opcodeOfDigits_of_op hop]

theorem encode_of_decode0 (hop : fieldOp w = 0x0) (h : decode0 w = some i) : encode i = w := by
  unfold decode0 at h
  split_ifs at h with hn hn <;> cases h <;> exact formatA_of_op_nnn hop hn

theorem encode_of_decode8 (hop : fieldOp w = 0x8) (h : decode8 w = some i) : encode i = w := by
  simp only [decode8] at h
  split_ifs at h with h0 h1 h2 h3 h4 h5 h6 h7 hE <;> cases h <;> exact opcodeOfDigits_of_op_n hop ‹_›

theorem encode_of_decodeE (hop : fieldOp w = 0xE) (h : decodeE w = some i) : encode i = w := by
  unfold decodeE at h
  split_ifs at h with hk hk <;> cases h <;> exact formatK_of_op_kk hop hk

theorem encode_of_decodeF (hop : fieldOp w = 0xF) (h : decodeF w = some i) : encode i = w := by
  simp only [decodeF] at h
  split_ifs at h <;> cases h <;> exact formatK_of_op_kk hop ‹_›

theorem nibble_cases (d : Nibble) : d = 0x0 ∨ d = 0x1 ∨ d = 0x2 ∨ d = 0x3 ∨ d = 0x4 ∨ d = 0x5 ∨ d = 0x6 ∨ d = 0x7 ∨
    d = 0x8 ∨ d = 0x9 ∨ d = 0xA ∨ d = 0xB ∨ d = 0xC ∨ d = 0xD ∨ d = 0xE ∨ d = 0xF := by
  decide +revert

theorem encode_of_decodeOpcode (h : decodeOpcode w = some i) : encode i = w := by
  rcases nibble_cases (fieldOp w) with
    hop | hop | hop | hop | hop | hop | hop | hop | hop | hop | hop | hop | hop | hop | hop | hop <;>
    simp [decodeOpcode, hop] at h
  · exact encode_of_decode0 hop h
  · exact h ▸ formatA_of_op hop
  · exact h ▸ formatA_of_op hop
  · exact h ▸ formatK_of_op hop
  · exact h ▸ formatK_of_op hop
  · exact h.2 ▸ opcodeOfDigits_of_op_n hop h.1
  · exact h ▸ formatK_of_op hop
  · exact h ▸ formatK_of_op hop
  · exact encode_of_decode8 hop h
  · exact h.2 ▸ opcodeOfDigits_of_op_n hop h.1
  · exact h ▸ formatA_of_op hop
  · exact h ▸ formatA_of_op hop
  · exact h ▸ formatK_of_op hop
  · exact h ▸ opcodeOfDigits_of_op hop
  · exact encode_of_decodeE hop h
  · exact encode_of_decodeF hop h

/-- Settles O3: the arms of the decoder, family by family, take every digit of the word into the instruction. -/
theorem encodeOfDecodeGivesTheWord : Obligations.EncodeOfDecodeGivesTheWord := fun _ _ h => encode_of_decodeOpcode h

/-! ### The decoder and the rows of the opcode table (R84) -/

theorem row_mem_opcodeRows (i : Instr) : i.row ∈ opcodeRows := by
  cases i <;> rw [Instr.row] <;> decide

theorem hits_row_encode (i : Instr) : i.row.hits (encode i) = true := by
  cases i with
  | cls => exact Laws.RowMatch.cls
  | ret => exact Laws.RowMatch.ret
  | jp nnn => exact Laws.RowMatch.jp nnn
  | call nnn => exact Laws.RowMatch.call nnn
  | seImm x kk => exact Laws.RowMatch.seImm x kk
  | sneImm x kk => exact Laws.RowMatch.sneImm x kk
  | seReg x y => exact Laws.RowMatch.seReg x y
  | ldImm x kk => exact Laws.RowMatch.ldImm x kk
  | addImm x kk => exact Laws.RowMatch.addImm x kk
  | ldReg x y => exact Laws.RowMatch.ldReg x y
  | orReg x y => exact Laws.RowMatch.orReg x y
  | andReg x y => exact Laws.RowMatch.andReg x y
  | xorReg x y => exact Laws.RowMatch.xorReg x y
  | addReg x y => exact Laws.RowMatch.addReg x y
  | subReg x y => exact Laws.RowMatch.subReg x y
  | shr x y => exact Laws.RowMatch.shr x y
  | subn x y => exact Laws.RowMatch.subn x y
  | shl x y => exact Laws.RowMatch.shl x y
  | sneReg x y => exact Laws.RowMatch.sneReg x y
  | ldI nnn => exact Laws.RowMatch.ldI nnn
  | jpV0 nnn => exact Laws.RowMatch.jpV0 nnn
  | rnd x kk => exact Laws.RowMatch.rnd x kk
  | drw x y n => exact Laws.RowMatch.drw x y n
  | skp x => exact Laws.RowMatch.skp x
  | sknp x => exact Laws.RowMatch.sknp x
  | ldVxDt x => exact Laws.RowMatch.ldVxDt x
  | ldVxK x => exact Laws.RowMatch.ldVxK x
  | ldDtVx x => exact Laws.RowMatch.ldDtVx x
  | ldStVx x => exact Laws.RowMatch.ldStVx x
  | addI x => exact Laws.RowMatch.addI x
  | ldF x => exact Laws.RowMatch.ldF x
  | ldB x => exact Laws.RowMatch.ldB x
  | storeRegs x => exact Laws.RowMatch.storeRegs x
  | loadRegs x => exact Laws.RowMatch.loadRegs x

theorem row_matches_of_decodeOpcode (h : decodeOpcode w = some i) : w &&& i.row.mask = i.row.pat := by
  have hits := hits_row_encode i
  rw [encode_of_decodeOpcode h] at hits
  exact eq_of_beq hits

/-! A word that a row matches, put together again from the digits the row fixes and the word's own fields. -/

theorem fieldOp_of_and_F000 {op : Nibble} {p : Word16} (h : w &&& 0xF000 = p) (hp : p = formatA op 0) :
    fieldOp w = op := by
  rw [hp, ← formatA_fields w, formatA_and_F000] at h
  have hop := congrArg fieldOp h
  rwa [fieldOp_formatA, fieldOp_formatA] at hop

theorem formatA_of_and_F000 {op : Nibble} {p : Word16} (h : w &&& 0xF000 = p) (hp : p = formatA op 0) :
    formatA op (fieldNNN w) = w := formatA_of_op (fieldOp_of_and_F000 h hp)

theorem opcodeOfDigits_of_and_F00F {op n : Nibble} {p : Word16} (h : w &&& 0xF00F = p)
    (hp : p = opcodeOfDigits op 0 0 n) : opcodeOfDigits op (fieldX w) (fieldY w) n = w := by
  rw [hp, ← opcodeOfDigits_fields w, opcodeOfDigits_and_F00F] at h
  have hop := congrArg fieldOp h
  have hn := congrArg fieldN h
  rw [fieldOp_opcodeOfDigits, fieldOp_opcodeOfDigits] at hop
  rw [fieldN_opcodeOfDigits, fieldN_opcodeOfDigits] at hn
  exact opcodeOfDigits_of_op_n hop hn

theorem formatK_of_and_F0FF {op : Nibble} {kk : Byte} {p : Word16} (h : w &&& 0xF0FF = p)
    (hp : p = formatK op 0 kk) : formatK op (fieldX w) kk = w := by
  rw [hp, ← formatK_fields w, formatK_and_F0FF] at h
  have hop := congrArg fieldOp h
  have hk := congrArg fieldKK h
  rw [fieldOp_formatK, fieldOp_formatK] at hop
  rw [fieldKK_formatK, fieldKK_formatK] at hk
  exact formatK_of_op_kk hop hk

/-- The word decodes to an instruction of the row. -/
def DecodesInto (w : Word16) (r : OpcodeRow) : Prop := ∃ i, decodeOpcode w = some i ∧ i.row = r

theorem decodesInto_row (h : encode i = w) : DecodesInto w i.row := ⟨i, h ▸ decodeOpcode_encode i, rfl⟩

/-! The rows format by format: the word is the encoding of the row's instruction with the word's own fields. -/

variable {r : OpcodeRow}

theorem decodesInto_of_mem_rowsZ (hr : r ∈ opcodeRowsZ) (h : w &&& r.mask = r.pat) : DecodesInto w r := by
  simp only [opcodeRowsZ, List.mem_cons, List.not_mem_nil, or_false] at hr
  have hw : w &&& BitVec.allOnes 16 = w := BitVec.and_allOnes
  rcases hr with rfl | rfl
  · exact decodesInto_row (i := .cls) (h.symm.trans hw)
  · exact decodesInto_row (i := .ret) (h.symm.trans hw)

theorem decodesInto_of_mem_rowsAK (hr : r ∈ opcodeRowsAK) (h : w &&& r.mask = r.pat) : DecodesInto w r := by
  simp only [opcodeRowsAK, List.map_cons, List.map_nil, List.mem_cons, List.not_mem_nil, or_false] at hr
  rcases hr with rfl | rfl | rfl | rfl | rfl | rfl | rfl | rfl | rfl | rfl
  · exact decodesInto_row (i := .jp (fieldNNN w)) (formatA_of_and_F000 h (by decide))
  · exact decodesInto_row (i := .call (fieldNNN w)) (formatA_of_and_F000 h (by decide))
  · exact decodesInto_row (i := .seImm (fieldX w) (fieldKK w)) (formatK_of_op (fieldOp_of_and_F000 h (by decide)))
  · exact decodesInto_row (i := .sneImm (fieldX w) (fieldKK w)) (formatK_of_op (fieldOp_of_and_F000 h (by decide)))
  · exact decodesInto_row (i := .ldImm (fieldX w) (fieldKK w)) (formatK_of_op (fieldOp_of_and_F000 h (by decide)))
  · exact decodesInto_row (i := .addImm (fieldX w) (fieldKK w)) (formatK_of_op (fieldOp_of_and_F000 h (by decide)))
  · exact decodesInto_row (i := .ldI (fieldNNN w)) (formatA_of_and_F000 h (by decide))
  · exact decodesInto_row (i := .jpV0 (fieldNNN w)) (formatA_of_and_F000 h (by decide))
  · exact decodesInto_row (i := .rnd (fieldX w) (fieldKK w)) (formatK_of_op (fieldOp_of_and_F000 h (by decide)))
  · exact decodesInto_row (i := .drw (fieldX w) (fieldY w) (fieldN w))
      (opcodeOfDigits_of_op (fieldOp_of_and_F000 h (by decide)))

theorem decodesInto_of_mem_rowsR (hr : r ∈ opcodeRowsR) (h : w &&& r.mask = r.pat) : DecodesInto w r := by
  simp only [opcodeRowsR, List.map_cons, List.map_nil, List.mem_cons, List.not_mem_nil, or_false] at hr
  rcases hr with rfl | rfl | rfl | rfl | rfl | rfl | rfl | rfl | rfl | rfl | rfl
  · exact decodesInto_row (i := .seReg (fieldX w) (fieldY w)) (opcodeOfDigits_of_and_F00F h (by decide))
  · exact decodesInto_row (i := .ldReg (fieldX w) (fieldY w)) (opcodeOfDigits_of_and_F00F h (by decide))
  · exact decodesInto_row (i := .orReg (fieldX w) (fieldY w)) (opcodeOfDigits_of_and_F00F h (by decide))
  · exact decodesInto_row (i := .andReg (fieldX w) (fieldY w)) (opcodeOfDigits_of_and_F00F h (by decide))
  · exact decodesInto_row (i := .xorReg (fieldX w) (fieldY w)) (opcodeOfDigits_of_and_F00F h (by decide))
  · exact decodesInto_row (i := .addReg (fieldX w) (fieldY w)) (opcodeOfDigits_of_and_F00F h (by decide))
  · exact decodesInto_row (i := .subReg (fieldX w) (fieldY w)) (opcodeOfDigits_of_and_F00F h (by decide))
  · exact decodesInto_row (i := .shr (fieldX w) (fieldY w)) (opcodeOfDigits_of_and_F00F h (by decide))
  · exact decodesInto_row (i := .subn (fieldX w) (fieldY w)) (opcodeOfDigits_of_and_F00F h (by decide))
  · exact decodesInto_row (i := .shl (fieldX w) (fieldY w)) (opcodeOfDigits_of_and_F00F h (by decide))
  · exact decodesInto_row (i := .sneReg (fieldX w) (fieldY w)) (opcodeOfDigits_of_and_F00F h (by decide))

theorem decodesInto_of_mem_rowsX (hr : r ∈ opcodeRowsX) (h : w &&& r.mask = r.pat) : DecodesInto w r := by
  simp only [opcodeRowsX, List.map_cons, List.map_nil, List.mem_cons, List.not_mem_nil, or_false] at hr
  rcases hr with rfl | rfl | rfl | rfl | rfl | rfl | rfl | rfl | rfl | rfl | rfl
  · exact decodesInto_row (i := .skp (fieldX w)) (formatK_of_and_F0FF h (by decide))
  · exact decodesInto_row (i := .sknp (fieldX w)) (formatK_of_and_F0FF h (by decide))
  · exact decodesInto_row (i := .ldVxDt (fieldX w)) (formatK_of_and_F0FF h (by decide))
  · exact decodesInto_row (i := .ldVxK (fieldX w)) (formatK_of_and_F0FF h (by decide))
  · exact decodesInto_row (i := .ldDtVx (fieldX w)) (formatK_of_and_F0FF h (by decide))
  · exact decodesInto_row (i := .ldStVx (fieldX w)) (formatK_of_and_F0FF h (by decide))
  · exact decodesInto_row (i := .addI (fieldX w)) (formatK_of_and_F0FF h (by decide))
  · exact decodesInto_row (i := .ldF (fieldX w)) (formatK_of_and_F0FF h (by decide))
  · exact decodesInto_row (i := .ldB (fieldX w)) (formatK_of_and_F0FF h (by decide))
  · exact decodesInto_row (i := .storeRegs (fieldX w)) (formatK_of_and_F0FF h (by decide))
  · exact decodesInto_row (i := .loadRegs (fieldX w)) (formatK_of_and_F0FF h (by decide))

theorem decodesInto_of_mem_opcodeRows (hr : r ∈ opcodeRows) (h : w &&& r.mask = r.pat) : DecodesInto w r := by
  simp only [opcodeRows, List.mem_append] at hr
  rcases hr with ((hr | hr) | hr) | hr
  · exact decodesInto_of_mem_rowsZ hr h
  · exact decodesInto_of_mem_rowsAK hr h
  · exact decodesInto_of_mem_rowsR hr h
  · exact decodesInto_of_mem_rowsX hr h

/-- Settles O4: a decoded instruction's encoding is the word and matches its row; a word that matches a row is the
encoding of an instruction of that row, which decodes to itself. -/
theorem decoderAgreesWithOpcodeTable : Obligations.DecoderAgreesWithOpcodeTable := fun _ =>
  ⟨fun i h => ⟨row_mem_opcodeRows i, row_matches_of_decodeOpcode h⟩, fun _ => decodesInto_of_mem_opcodeRows⟩

/-- Settles O5: a word of two rows decodes to one instruction, whose row is both. -/
theorem opcodeRowsAreDisjoint : Obligations.OpcodeRowsAreDisjoint := by
  refine ⟨rfl, fun w r hr q hq hwr hwq => ?_⟩
  obtain ⟨i, hi, rfl⟩ := decodesInto_of_mem_opcodeRows hr hwr
  obtain ⟨j, hj, rfl⟩ := decodesInto_of_mem_opcodeRows hq hwq
  rw [Option.some.inj (hi.symm.trans hj)]

/-! ### Words that are no instruction (R86, R88) -/

/-- A word is an instruction iff the decoder gives one. -/
theorem wellFormedWord_eq_isSome_decodeOpcode (w : Word16) : wellFormedWord w = (decodeOpcode w).isSome := by
  rw [Bool.eq_iff_iff, wellFormedWord, List.any_eq_true, Option.isSome_iff_exists]
  constructor
  · rintro ⟨r, hr, hits⟩
    obtain ⟨i, hi, -⟩ := decodesInto_of_mem_opcodeRows hr (eq_of_beq hits)
    exact ⟨i, hi⟩
  · rintro ⟨i, hi⟩
    exact ⟨i.row, row_mem_opcodeRows i, beq_of_eq (row_matches_of_decodeOpcode hi)⟩

theorem decodeOpcode_eq_none_iff (w : Word16) : decodeOpcode w = none ↔ wellFormedWord w = false := by
  rw [wellFormedWord_eq_isSome_decodeOpcode, Option.isSome_eq_false_iff, Option.isNone_iff_eq_none]

theorem decodeOpcode_formatA_zero {nnn : Addr12} (h0 : nnn ≠ 0x0E0) (hE : nnn ≠ 0x0EE) :
    decodeOpcode (formatA 0x0 nnn) = none := by
  rw [decodeOpcode, if_pos (fieldOp_formatA 0x0 nnn), decode0, fieldNNN_formatA, if_neg h0, if_neg hE]

/-- Settles O1: each of the words is a numeral, so the decoder is run on it. -/
theorem specWordsDecode : Obligations.SpecWordsDecode := by
  unfold Obligations.SpecWordsDecode
  decide

end Sys2Proof
end

section
/-! PROOF. The frame of every state operation, and what one instruction may write: every claim about what an instruction
leaves alone goes through `exec_keepsAllBut`. -/

namespace Sys2Proof.Machine

/-! ### Outcomes -/

/-- What holds of the state an outcome is known to have holds of the state it has. -/
theorem of_eq_next {r : Result} {u t : State} {P : State → Prop} (hu : r = .next u) (hP : P u) (h : r = .next t) :
    P t := by
  cases hu.symm.trans h
  exact hP

theorem eq_of_eq_next {r : Result} {u t : State} (hu : r = .next u) (h : r = .next t) : t = u :=
  of_eq_next (P := fun v => v = u) hu rfl h

/-! ### Frames of the remaining state operations -/

variable {changed : Loc → Prop} (s u : State)

theorem KeepsAllBut.mono {changed' : Loc → Prop} {s t : State} (h : KeepsAllBut changed s t)
    (hc : ∀ l, changed l → changed' l) : KeepsAllBut changed' s t :=
  fun l hl => h l fun hl' => hl (hc l hl')

theorem Loc.Same.trans {l : Loc} {s t u : State} (h₁ : l.Same s t) (h₂ : l.Same t u) : l.Same s u := by
  cases l <;> exact Eq.trans h₂ h₁

theorem KeepsAllBut.trans {s t u : State} (h₁ : KeepsAllBut changed s t) (h₂ : KeepsAllBut changed t u) :
    KeepsAllBut changed s u := fun l hl => (h₁ l hl).trans (h₂ l hl)

@[simp] theorem keepsAllBut_skipIf (c : Bool) : KeepsAllBut changed s (u.skipIf c) ↔ KeepsAllBut changed s u :=
  keepsAllBut_jumpTo changed s u _

theorem keepsAllBut_setFlag (h : changed (.reg VF)) (c : Bool) :
    KeepsAllBut changed s (u.setFlag c) ↔ KeepsAllBut changed s u := keepsAllBut_setV h s u _

theorem keepsAllBut_setResultFlag {r : RegIdx} (hr : changed (.reg r)) (h : changed (.reg VF)) (res : Byte) (c : Bool) :
    KeepsAllBut changed s (u.setResultFlag Config.vfWriteOrder r res c) ↔ KeepsAllBut changed s u :=
  (keepsAllBut_setFlag s _ h c).trans (keepsAllBut_setV hr s u res)

theorem keepsAllBut_setDt (h : changed .dt) (b : Byte) :
    KeepsAllBut changed s (u.setDt b) ↔ KeepsAllBut changed s u :=
  forall₂_congr fun l hl => by
    cases l with
    | dt => exact absurd h hl
    | _ => rfl

theorem keepsAllBut_setSt (h : changed .st) (b : Byte) :
    KeepsAllBut changed s (u.setSt b) ↔ KeepsAllBut changed s u :=
  forall₂_congr fun l hl => by
    cases l with
    | st => exact absurd h hl
    | _ => rfl

theorem keepsAllBut_diagnose (h : changed .diags) (d : DiagKind) (w : Word16) :
    KeepsAllBut changed s (u.diagnose d w) ↔ KeepsAllBut changed s u :=
  forall₂_congr fun l hl => by
    cases l with
    | diags => exact absurd h hl
    | _ => rfl

theorem keepsAllBut_consumeRand (h : changed .draws) :
    KeepsAllBut changed s u.consumeRand ↔ KeepsAllBut changed s u :=
  forall₂_congr fun l hl => by
    cases l with
    | draws => exact absurd h hl
    | _ => rfl

theorem keepsAllBut_setSlot (h : changed .slot) (k : Nibble) :
    KeepsAllBut changed s (u.setSlot k) ↔ KeepsAllBut changed s u :=
  forall₂_congr fun l hl => by
    cases l with
    | slot => exact absurd h hl
    | _ => rfl

theorem keepsAllBut_setAgenda (h : changed .agenda) (es : List Event) :
    KeepsAllBut changed s (u.setAgenda es) ↔ KeepsAllBut changed s u :=
  forall₂_congr fun l hl => by
    cases l with
    | agenda => exact absurd h hl
    | _ => rfl

theorem keepsAllBut_drop (h : changed .sp) : KeepsAllBut changed s u.drop ↔ KeepsAllBut changed s u :=
  forall₂_congr fun l hl => by
    cases l with
    | sp => exact absurd h hl
    | _ => rfl

theorem State.stack_push_of_ne (a : Word16) (h : u.sp.toNat < 16) {k : Fin 16} (hk : k.val ≠ u.sp.toNat) :
    (u.push a h).stack[k] = u.stack[k] := Vector.getElem_set_ne h k.isLt hk.symm

theorem keepsAllBut_push (hsp : changed .sp) (h : u.sp.toNat < 16) (hk : changed (.entry ⟨u.sp.toNat, h⟩))
    (a : Word16) : KeepsAllBut changed s (u.push a h) ↔ KeepsAllBut changed s u :=
  forall₂_congr fun l hl => by
    cases l with
    | sp => exact absurd hsp hl
    | entry k =>
      have hne : k.val ≠ u.sp.toNat := fun e => hl (Fin.ext (b := ⟨_, h⟩) e ▸ hk)
      simp only [Loc.Same, State.stack_push_of_ne u a h hne]
    | _ => rfl

theorem keepsAllBut_setKey {k : Nibble} (h : changed (.key k)) (b : Bool) :
    KeepsAllBut changed s (u.setKey k b) ↔ KeepsAllBut changed s u :=
  forall₂_congr fun l hl => by
    cases l with
    | key j =>
      have hne : j ≠ k := fun e => hl (e ▸ h)
      simp only [Loc.Same, State.getKey_setKey, if_neg hne]
    | _ => rfl

theorem keepsAllBut_loadV {bs : List Byte} (h : ∀ r : RegIdx, r.toNat < bs.length → changed (.reg r)) :
    KeepsAllBut changed s (u.loadV bs) ↔ KeepsAllBut changed s u :=
  forall₂_congr fun l hl => by
    cases l with
    | reg q =>
      have hq : ¬ q.toNat < bs.length := fun e => hl (h q e)
      simp only [Loc.Same, State.getV_loadV, dif_neg hq]
    | _ => rfl

theorem keepsAllBut_memWriteBytes {a : Word16} {bs : List Byte} (hn : bs.length ≤ 4096)
    (h : ∀ ea, InBlock a bs.length ea → changed (.byte ea)) :
    KeepsAllBut changed s (u.memWriteBytes a bs) ↔ KeepsAllBut changed s u :=
  forall₂_congr fun l hl => by
    cases l with
    | byte ea =>
      have hea : ¬ InBlock a bs.length ea := fun e => hl (h ea e)
      simp only [Loc.Same, State.memRead_memWriteBytes_outside u a ea hn hea]
    | _ => simp [Loc.Same]

theorem keepsAllBut_checkKeyIndex {b : Byte} (h : 15 < b.toNat → changed .diags) (w : Word16) :
    KeepsAllBut changed s (u.checkKeyIndex Config.keyIndexPolicy b w) ↔ KeepsAllBut changed s u := by
  by_cases hb : 15 < b.toNat
  · rw [Config.keyIndexPolicy, State.checkKeyIndex_of_ge u w hb, keepsAllBut_diagnose s u (h hb)]
  · rw [State.checkKeyIndex_of_lt u _ w (Nat.lt_of_not_le hb)]

/-! The frame of an outcome whose one effect beside the advance is a timer write or a diagnostic. -/

theorem keepsAllBut_setDt_advance (b : Byte) : KeepsAllBut (fun l => l = .dt) s (s.setDt b).advance := by
  rw [keepsAllBut_advance, keepsAllBut_setDt (changed := fun l => l = .dt) s s rfl]
  exact keepsAllBut_refl _ s

theorem keepsAllBut_setSt_advance (b : Byte) : KeepsAllBut (fun l => l = .st) s (s.setSt b).advance := by
  rw [keepsAllBut_advance, keepsAllBut_setSt (changed := fun l => l = .st) s s rfl]
  exact keepsAllBut_refl _ s

theorem keepsAllBut_diagnose_advance (d : DiagKind) (w : Word16) :
    KeepsAllBut (fun l => l = .diags) s (s.diagnose d w).advance := by
  rw [keepsAllBut_advance, keepsAllBut_diagnose (changed := fun l => l = .diags) s s rfl]
  exact keepsAllBut_refl _ s

/-! ### What an instruction may write -/

/-- The locations an instruction may write in a state: its destinations (10_state.md R22), and with CALL, RET, SKP and
SKNP either the effect or the diagnostic, whichever the state calls for. -/
def MayWrite (s : State) : Instr → Loc → Prop
  | .cls, l => ∃ x y, l = .pixel x y
  | .ret, l => if s.sp = 0 then l = .diags else l = .sp
  | .call _, l => if s.sp = 16 then l = .diags else l = .sp ∨ ∃ k : Fin 16, k.val = s.sp.toNat ∧ l = .entry k
  | .jp _, _ | .seImm _ _, _ | .sneImm _ _, _ | .seReg _ _, _ | .sneReg _ _, _ | .jpV0 _, _ => False
  | .ldImm x _, l | .addImm x _, l | .ldReg x _, l | .orReg x _, l | .andReg x _, l | .xorReg x _, l
  | .ldVxDt x, l => l = .reg x
  | .addReg x _, l | .subReg x _, l | .shr x _, l | .shl x _, l => l = .reg x ∨ l = .reg VF
  | .subn _ y, l => l = .reg y ∨ l = .reg VF
  | .ldI _, l | .addI _, l | .ldF _, l => l = .index
  | .rnd x _, l => l = .reg x ∨ l = .draws
  | .drw _ _ _, l => l = .reg VF ∨ ∃ px py, l = .pixel px py
  | .skp x, l | .sknp x, l => 15 < (s.getV x).toNat ∧ l = .diags
  | .ldVxK x, l => l = .reg x ∨ l = .slot
  | .ldDtVx _, l => l = .dt
  | .ldStVx _, l => l = .st
  | .ldB _, l => Loc.InStore s.i 3 l
  | .storeRegs x, l => Loc.InStore s.i (x.toNat + 1) l
  | .loadRegs x, l => ∃ r : RegIdx, l = .reg r ∧ r.toNat ≤ x.toNat

end Sys2Proof.Machine

namespace Sys2Proof.Machine

variable {s t : State}

theorem mayWrite_call_of_eq (nnn : Addr12) (h : s.sp = 16) : MayWrite s (.call nnn) = fun l => l = .diags :=
  funext fun _ => if_pos h

theorem mayWrite_call_of_ne (nnn : Addr12) (h : s.sp ≠ 16) :
    MayWrite s (.call nnn) = fun l => l = .sp ∨ ∃ k : Fin 16, k.val = s.sp.toNat ∧ l = .entry k :=
  funext fun _ => if_neg h

theorem mayWrite_ret_of_eq (h : s.sp = 0) : MayWrite s .ret = fun l => l = .diags := funext fun _ => if_pos h

theorem mayWrite_ret_of_ne (h : s.sp ≠ 0) : MayWrite s .ret = fun l => l = .sp := funext fun _ => if_neg h

theorem exec_call_keepsAllBut {nnn : Addr12} (h : exec (.call nnn) s = .next t) :
    KeepsAllBut (MayWrite s (.call nnn)) s t := by
  rcases execCall_cases nnn s with ⟨hsp, e⟩ | ⟨hsp, e⟩ | ⟨-, e⟩
  · have hw := mayWrite_call_of_eq nnn hsp
    refine of_eq_next e ?_ h
    rw [hw]
    exact keepsAllBut_diagnose_advance s _ _
  · have hne : s.sp ≠ 16 := fun h16 => by simp [h16] at hsp
    have hw := mayWrite_call_of_ne nnn hne
    refine of_eq_next e ?_ h
    rw [hw, keepsAllBut_jumpTo, keepsAllBut_push s s (.inl rfl) hsp (.inr ⟨_, rfl, rfl⟩)]
    exact keepsAllBut_refl _ s
  · exact nomatch e.symm.trans h

theorem exec_ret_keepsAllBut (h : exec .ret s = .next t) : KeepsAllBut (MayWrite s .ret) s t := by
  rcases execRet_cases s with ⟨hsp, e⟩ | ⟨hlt, hne, e⟩ | ⟨-, e⟩
  · have hw := mayWrite_ret_of_eq hsp
    refine of_eq_next e ?_ h
    rw [hw]
    exact keepsAllBut_diagnose_advance s _ _
  · have hw := mayWrite_ret_of_ne hne
    refine of_eq_next e ?_ h
    rw [hw, keepsAllBut_jumpTo, keepsAllBut_drop (changed := fun l => l = .sp) s s rfl]
    exact keepsAllBut_refl _ s
  · exact nomatch e.symm.trans h

theorem exec_ldVxK_keepsAllBut {x : RegIdx} (h : exec (.ldVxK x) s = .next t) :
    KeepsAllBut (MayWrite s (.ldVxK x)) s t := by
  cases hslot : s.slot with
  | none =>
    refine of_eq_next (exec_ldVxK_of_slot_none hslot x) ?_ h
    rw [keepsAllBut_jumpTo]
    exact keepsAllBut_refl _ s
  | some k => exact of_eq_next (exec_ldVxK_of_slot_some hslot x) (keepsAllBut_setV_clearSlot_advance x _ s) h

/-- Whatever an instruction does, it leaves every location alone that it does not write. -/
theorem exec_keepsAllBut {i : Instr} (h : exec i s = .next t) : KeepsAllBut (MayWrite s i) s t := by
  cases i with
  | call nnn => exact exec_call_keepsAllBut h
  | ret => exact exec_ret_keepsAllBut h
  | ldVxK x => exact exec_ldVxK_keepsAllBut h
  | cls => exact of_eq_next rfl (keepsAllBut_setFb_advance _ s) h
  | jp | jpV0 =>
    refine of_eq_next rfl ?_ h
    simp only [keepsAllBut_jumpTo, keepsAllBut_refl]
  | seImm | sneImm | seReg | sneReg =>
    refine of_eq_next rfl ?_ h
    simp only [keepsAllBut_skipIf, keepsAllBut_refl]
  | ldImm x | addImm x | ldReg x | orReg x | andReg x | xorReg x | ldVxDt x =>
    exact of_eq_next rfl (keepsAllBut_setV_advance x _ s) h
  | addReg | subReg | shr | subn | shl =>
    refine of_eq_next rfl ?_ h
    rw [keepsAllBut_advance, keepsAllBut_setResultFlag s s (.inl rfl) (.inr rfl)]
    exact keepsAllBut_refl _ s
  | ldI | addI | ldF => exact of_eq_next rfl (keepsAllBut_setI_advance _ s) h
  | rnd =>
    refine of_eq_next rfl ?_ h
    rw [keepsAllBut_advance, keepsAllBut_setV (.inl rfl), keepsAllBut_consumeRand s s (.inr rfl)]
    exact keepsAllBut_refl _ s
  | drw =>
    refine of_eq_next rfl ?_ h
    rw [keepsAllBut_advance, keepsAllBut_setFlag s _ (.inl rfl), keepsAllBut_setFb fun px py => .inr ⟨px, py, rfl⟩]
    exact keepsAllBut_refl _ s
  | skp | sknp =>
    refine of_eq_next rfl ?_ h
    rw [keepsAllBut_skipIf, keepsAllBut_checkKeyIndex s s fun hk => ⟨hk, rfl⟩]
    exact keepsAllBut_refl _ s
  | ldDtVx => exact of_eq_next rfl (keepsAllBut_setDt_advance s _) h
  | ldStVx => exact of_eq_next rfl (keepsAllBut_setSt_advance s _) h
  | ldB =>
    refine of_eq_next rfl ?_ h
    rw [keepsAllBut_advance, keepsAllBut_memWriteBytes s s (by simp [bcdDigits]) fun ea hea => ⟨ea, rfl, hea⟩]
    exact keepsAllBut_refl _ s
  | storeRegs x =>
    have := x.isLt
    refine of_eq_next rfl ?_ h
    rw [keepsAllBut_advance, keepsAllBut_memWriteBytes s s (by simp; omega) fun ea hea =>
      ⟨ea, rfl, by simpa using hea⟩]
    exact keepsAllBut_refl _ s
  | loadRegs x =>
    refine of_eq_next rfl ?_ h
    rw [keepsAllBut_advance, keepsAllBut_loadV s s fun r hr => ⟨r, rfl, by simp at hr; omega⟩]
    exact keepsAllBut_refl _ s

end Sys2Proof.Machine
end

section
/-! PROOF. The invariant of 10_state.md R45, SP within 0..16 and memory in canonical form, is kept by every event. -/

namespace Sys2Proof.Machine

variable {s t : State} {i : Instr}

/-! ### Memory and SP after one instruction -/

/-- Memory after an instruction: as before, or with bytes stored from I on. -/
theorem exec_mem (h : exec i s = .next t) : t.mem = s.mem ∨ ∃ bs, t.mem = (s.memWriteBytes s.i bs).mem := by
  cases i with
  | ldB x => exact eq_of_eq_next rfl h ▸ .inr ⟨_, rfl⟩
  | storeRegs x => exact eq_of_eq_next rfl h ▸ .inr ⟨_, rfl⟩
  | call nnn =>
    rcases execCall_cases nnn s with ⟨-, e⟩ | ⟨hsp, e⟩ | ⟨-, e⟩
    · exact eq_of_eq_next e h ▸ .inl rfl
    · exact eq_of_eq_next e h ▸ .inl rfl
    · exact nomatch e.symm.trans h
  | ret =>
    rcases execRet_cases s with ⟨-, e⟩ | ⟨hlt, -, e⟩ | ⟨-, e⟩
    · exact eq_of_eq_next e h ▸ .inl rfl
    · exact eq_of_eq_next e h ▸ .inl rfl
    · exact nomatch e.symm.trans h
  | ldVxK x =>
    cases hslot : s.slot with
    | none => exact eq_of_eq_next (exec_ldVxK_of_slot_none hslot x) h ▸ .inl rfl
    | some k => exact eq_of_eq_next (exec_ldVxK_of_slot_some hslot x) h ▸ .inl rfl
  | skp x | sknp x => exact eq_of_eq_next rfl h ▸ .inl (by simp)
  | _ => exact eq_of_eq_next rfl h ▸ .inl rfl

theorem exec_wf_mem (hs : Memory.wf s.mem) (h : exec i s = .next t) : Memory.wf t.mem := by
  rcases exec_mem h with e | ⟨bs, e⟩
  · rwa [e]
  · rw [e]
    exact State.wf_memWriteBytes hs s.i bs

/-- SP after an instruction: as before, one more by a CALL below 16, one less by a RET above 0. -/
theorem exec_sp (h : exec i s = .next t) :
    t.sp = s.sp ∨ ((∃ nnn, i = .call nnn) ∧ s.sp.toNat < 16 ∧ t.sp = s.sp + 1) ∨
      (i = .ret ∧ s.sp ≠ 0 ∧ t.sp = s.sp - 1) := by
  cases i with
  | call nnn =>
    rcases execCall_cases nnn s with ⟨-, e⟩ | ⟨hsp, e⟩ | ⟨-, e⟩
    · exact eq_of_eq_next e h ▸ .inl rfl
    · exact eq_of_eq_next e h ▸ .inr (.inl ⟨⟨nnn, rfl⟩, hsp, rfl⟩)
    · exact nomatch e.symm.trans h
  | ret =>
    rcases execRet_cases s with ⟨-, e⟩ | ⟨hlt, hne, e⟩ | ⟨-, e⟩
    · exact eq_of_eq_next e h ▸ .inl rfl
    · exact eq_of_eq_next e h ▸ .inr (.inr ⟨rfl, hne, rfl⟩)
    · exact nomatch e.symm.trans h
  | _ => exact .inl (exec_keepsAllBut h .sp (by simp [MayWrite, Loc.InStore]))

theorem exec_sp_le (hs : s.sp.toNat ≤ 16) (h : exec i s = .next t) : t.sp.toNat ≤ 16 := by
  rcases exec_sp h with e | ⟨-, hlt, e⟩ | ⟨-, hne, e⟩
  · rwa [e]
  · rw [e, BitVec.toNat_add]
    exact (Nat.mod_le _ _).trans hlt
  · rw [e, toNat_pred hne]
    omega

theorem exec_keeps_inv (hs : s.Inv) (h : exec i s = .next t) : t.Inv :=
  ⟨exec_sp_le hs.1 h, exec_wf_mem hs.2 h⟩

/-! ### Every event keeps the invariant -/

theorem execOpcode_keeps_inv {w : Word16} (hs : s.Inv) (h : execOpcode w s = .next t) : t.Inv := by
  cases hd : decodeOpcode w with
  | some i => exact exec_keeps_inv hs (execOpcode_of_some hd s ▸ h)
  | none => exact of_eq_next (execOpcode_of_none hd s) (P := State.Inv) hs h

theorem stepEvent_keeps_inv (hs : s.Inv) (h : stepEvent s = .next t) : t.Inv := by
  obtain ⟨u, hu, rfl⟩ := endStep_eq_next.1 h
  exact execOpcode_keeps_inv (t := u) hs hu

theorem applyReset_inv (font : Font) (rom : List Byte) (loads : List LoadByte) (s : State) :
    (applyReset font rom loads s).Inv :=
  ⟨by simp, applyReset_wf font rom loads s⟩

theorem applySetHeld_of_lt {k : Nat} (b : Bool) (s : State) (h : k < 16) :
    applySetHeld k b s = .next (s.setKey (BitVec.ofNat 4 k) b) := if_pos h

theorem applySetHeld_of_ge {k : Nat} (b : Bool) (s : State) (h : 16 ≤ k) :
    applySetHeld k b s = .refused .hostKeyOutOfRange := if_neg (Nat.not_lt.2 h)

theorem applyNotifyPressed_of_lt {k : Nat} (s : State) (h : k < 16) :
    applyNotifyPressed k s = .next (s.setSlot (BitVec.ofNat 4 k)) := if_pos h

theorem applyNotifyPressed_of_ge {k : Nat} (s : State) (h : 16 ≤ k) :
    applyNotifyPressed k s = .refused .hostKeyOutOfRange := if_neg (Nat.not_lt.2 h)

theorem applyEvent_keeps_inv {e : Event} (hs : s.Inv) (h : applyEvent e s = .next t) : t.Inv := by
  cases e with
  | step => exact stepEvent_keeps_inv hs h
  | tick => exact eq_of_eq_next rfl h ▸ hs
  | setHeld k b =>
    rcases lt_or_ge k 16 with hk | hk
    · exact of_eq_next (applySetHeld_of_lt b s hk) (P := State.Inv) hs h
    · exact nomatch (applySetHeld_of_ge b s hk).symm.trans h
  | notifyPressed k =>
    rcases lt_or_ge k 16 with hk | hk
    · exact of_eq_next (applyNotifyPressed_of_lt s hk) (P := State.Inv) hs h
    · exact nomatch (applyNotifyPressed_of_ge s hk).symm.trans h
  | reset font rom loads => exact of_eq_next rfl (applyReset_inv font rom loads s) h

/-- Settles O11: the next event is STEP or the first of the agenda, and the invariant does not mention the agenda. -/
theorem stepKeepsInvariant : Obligations.StepKeepsInvariant := fun s t hs h => by
  cases hag : s.agenda with
  | nil => exact stepEvent_keeps_inv hs (step_of_agenda_nil hag ▸ h)
  | cons e rest => exact applyEvent_keeps_inv (s := s.setAgenda rest) hs (step_of_agenda_cons hag ▸ h)

/-- Settles O12: the reset state has SP = 0 and lists no cell. -/
theorem resetMeetsInvariant : Obligations.ResetMeetsInvariant := ⟨Nat.zero_le 16, Memory.wf_reset⟩

end Sys2Proof.Machine
end

section
/-! PROOF. The event STEP: fetch, decode, execute, empty the slot (40_step_and_dispatch.md R100 to R106), and that it
completes from every state a run reaches (60_exceptions.md R230). -/

namespace Sys2Proof.Machine

variable {s t : State} {i : Instr}

/-! ### The outcome of one instruction -/

/-- An instruction completes, unless it is a CALL or RET with an SP that no run reaches. -/
theorem exec_completes_or_faults (i : Instr) (s : State) :
    (∃ t, exec i s = .next t) ∨ (16 < s.sp.toNat ∧ exec i s = .fault .stackIndexOutOfRange) := by
  cases i with
  | call nnn =>
    rcases execCall_cases nnn s with ⟨-, e⟩ | ⟨hsp, e⟩ | ⟨hsp, e⟩
    · exact .inl ⟨_, e⟩
    · exact .inl ⟨_, e⟩
    · exact .inr ⟨hsp, e⟩
  | ret =>
    rcases execRet_cases s with ⟨-, e⟩ | ⟨hlt, -, e⟩ | ⟨hsp, e⟩
    · exact .inl ⟨_, e⟩
    · exact .inl ⟨_, e⟩
    · exact .inr ⟨hsp, e⟩
  | ldVxK x =>
    cases hslot : s.slot with
    | none => exact .inl ⟨_, exec_ldVxK_of_slot_none hslot x⟩
    | some k => exact .inl ⟨_, exec_ldVxK_of_slot_some hslot x⟩
  | _ => exact .inl ⟨_, rfl⟩

theorem exec_completes (i : Instr) (hs : s.sp.toNat ≤ 16) : ∃ t, exec i s = .next t :=
  (exec_completes_or_faults i s).resolve_right fun h => Nat.not_lt.2 hs h.1

theorem exec_ne_refused (i : Instr) (s : State) (r : Refusal) : exec i s ≠ .refused r := by
  rcases exec_completes_or_faults i s with ⟨t, e⟩ | ⟨-, e⟩ <;> rw [e] <;> exact nofun

/-! ### STEP of a decoded and of an unrecognised opcode -/

theorem stepEvent_of_some (h : decodeOpcode s.fetch = some i) : stepEvent s = endStep (exec i s) := by
  rw [stepEvent, execOpcode_of_some h]

theorem stepEvent_of_none (h : decodeOpcode s.fetch = none) :
    stepEvent s = .next (s.diagnose .unknownOpcode s.fetch).advance.clearSlot := by
  rw [stepEvent, execOpcode_of_none h, endStep]

theorem step_of_agenda_step {rest : List Event} (h : s.agenda = .step :: rest) :
    step s = stepEvent (s.setAgenda rest) := step_of_agenda_cons h

/-- Settles O6: the fetch does not see the agenda, so from both its forms the step is the instruction's outcome with the
slot emptied. -/
theorem stepRunsTheDecodedInstruction : Obligations.StepRunsTheDecodedInstruction := by
  refine fun s i hd => ⟨exec_ne_refused i s, fun hag => ?empty, fun rest hag => ?queued⟩
  case empty =>
    have hstep : step s = endStep (exec i s) := (step_of_agenda_nil hag).trans (stepEvent_of_some hd)
    exact ⟨fun t ht => hstep.trans (by rw [ht]; rfl), fun f hf => hstep.trans (by rw [hf]; rfl)⟩
  case queued =>
    have hstep : step s = endStep (exec i (s.setAgenda rest)) :=
      (step_of_agenda_step hag).trans (stepEvent_of_some (s := s.setAgenda rest) hd)
    exact ⟨fun t ht => hstep.trans (congrArg endStep ht), fun f hf => hstep.trans (congrArg endStep hf)⟩

/-- Settles O7: the fetch joins two bytes, the first one high, and a read sees its address modulo 4096 only. -/
theorem fetchIsBigEndian : Obligations.FetchIsBigEndian := fun s =>
  ⟨toNat_opcodeOfBytes _ _, fun _ _ h => s.memRead_congr h⟩

theorem stepEvent_slot (h : stepEvent s = .next t) : t.slot = none := by
  obtain ⟨u, -, rfl⟩ := endStep_eq_next.1 h
  exact u.clearSlot_slot

/-- Settles O9: from both forms of the agenda the step is a STEP, whose end empties the slot. -/
theorem slotIsEmptyAfterStep : Obligations.SlotIsEmptyAfterStep := fun s t hnext h => by
  rcases hnext with hag | ⟨rest, hag⟩
  · exact stepEvent_slot (step_of_agenda_nil hag ▸ h)
  · exact stepEvent_slot (step_of_agenda_step hag ▸ h)

/-- Settles O8: an unrecognised opcode decodes to nothing, so the STEP is UNDEF; and the family 0 has the two
instructions 00E0 and 00EE only. -/
theorem unrecognisedOpcodeOnlyAdvances : Obligations.UnrecognisedOpcodeOnlyAdvances := by
  refine ⟨fun s hag hw => ?undef, fun nnn h0 hE => (decodeOpcode_eq_none_iff _).1 (decodeOpcode_formatA_zero h0 hE)⟩
  have hd := (decodeOpcode_eq_none_iff s.fetch).2 hw
  refine ⟨_, (step_of_agenda_nil hag).trans (stepEvent_of_none hd), rfl, rfl, ?channel, rfl, ?frame⟩
  case channel => simp [State.diagChannel]
  case frame =>
    rw [keepsAllBut_clearSlot (.inl rfl), keepsAllBut_advance, keepsAllBut_diagnose s s (.inr rfl)]
    exact keepsAllBut_refl _ s

/-! ### Every event within the contract completes -/

theorem stepEvent_completes (hs : s.Inv) : ∃ t, stepEvent s = .next t := by
  cases hd : decodeOpcode s.fetch with
  | none => exact ⟨_, stepEvent_of_none hd⟩
  | some i =>
    obtain ⟨t, ht⟩ := exec_completes i hs.1
    exact ⟨t.clearSlot, by rw [stepEvent_of_some hd, ht, endStep]⟩

theorem applyEvent_completes {e : Event} (hs : s.Inv) (he : e.wellFormed = true) : ∃ t, applyEvent e s = .next t := by
  cases e with
  | step => exact stepEvent_completes hs
  | tick | reset => exact ⟨_, rfl⟩
  | setHeld k b => exact ⟨_, applySetHeld_of_lt b s (of_decide_eq_true he)⟩
  | notifyPressed k => exact ⟨_, applyNotifyPressed_of_lt s (of_decide_eq_true he)⟩

/-- Settles O10: with SP at most 16 no instruction faults, and no event within the contract is refused. -/
theorem stepCompletesFromInvariant : Obligations.StepCompletesFromInvariant := fun s hs hwf => by
  cases hag : s.agenda with
  | nil => exact step_of_agenda_nil hag ▸ stepEvent_completes hs
  | cons e rest => exact step_of_agenda_cons hag ▸ applyEvent_completes (s := s.setAgenda rest) hs (hwf e rest hag)

end Sys2Proof.Machine
end

section
/-! PROOF. What one instruction writes, location by location: special registers, memory and pixels, the stack, the
general registers, the flag (10_state.md R22 to R31). Each is read off `MayWrite`, instruction by instruction. -/

namespace Sys2Proof.Machine

variable {s t : State} {i : Instr}

/-- A location that reads differently after an instruction is one the instruction may write. -/
theorem mayWrite_of_not_same (h : exec i s = .next t) {l : Loc} (hl : ¬ l.Same s t) : MayWrite s i l :=
  not_not.1 fun hw => hl (exec_keepsAllBut h l hw)

/-! ### Which instructions may write a location -/

theorem not_mayWrite_key (i : Instr) (s : State) (k : Nibble) : ¬ MayWrite s i (.key k) := by
  cases i <;> simp [MayWrite, Loc.InStore]

theorem not_mayWrite_agenda (i : Instr) (s : State) : ¬ MayWrite s i .agenda := by
  cases i <;> simp [MayWrite, Loc.InStore]

theorem mayWrite_slot_iff : MayWrite s i .slot ↔ ∃ x, i = .ldVxK x := by
  cases i <;> simp [MayWrite, Loc.InStore]

theorem mayWrite_dt_iff : MayWrite s i .dt ↔ ∃ x, i = .ldDtVx x := by
  cases i <;> simp [MayWrite, Loc.InStore]

theorem mayWrite_st_iff : MayWrite s i .st ↔ ∃ x, i = .ldStVx x := by
  cases i <;> simp [MayWrite, Loc.InStore]

theorem mayWrite_index_iff :
    MayWrite s i .index ↔ (∃ nnn, i = .ldI nnn) ∨ (∃ x, i = .addI x) ∨ ∃ x, i = .ldF x := by
  cases i <;> simp [MayWrite, Loc.InStore]

theorem mayWrite_byte_iff {ea : Word16} : MayWrite s i (.byte ea) ↔
    (∃ x, i = .ldB x ∧ InBlock s.i 3 ea) ∨ ∃ x, i = .storeRegs x ∧ InBlock s.i (x.toNat + 1) ea := by
  cases i <;> simp [MayWrite, Loc.InStore]

theorem mayWrite_pixel_iff {px : Fin 64} {py : Fin 32} :
    MayWrite s i (.pixel px py) ↔ i = .cls ∨ ∃ x y n, i = .drw x y n := by
  cases i <;> simp [MayWrite, Loc.InStore]

theorem mayWrite_entry_iff {k : Fin 16} :
    MayWrite s i (.entry k) ↔ (∃ nnn, i = .call nnn) ∧ s.sp ≠ 16 ∧ k.val = s.sp.toNat := by
  cases i <;> simp [MayWrite, Loc.InStore]

theorem mayWrite_reg_iff {r : RegIdx} :
    MayWrite s i (.reg r) ↔ IsDestination r i ∨ (r = VF ∧ WritesFlag i) := by
  cases i <;> simp [MayWrite, Loc.InStore, IsDestination, WritesFlag]

/-! ### Special registers and draws -/

theorem exec_key (h : exec i s = .next t) : t.key = s.key :=
  Vector.ext fun k hk => exec_keepsAllBut h (.key (BitVec.ofNatLT k hk)) (not_mayWrite_key i s _)

theorem exec_agenda (h : exec i s = .next t) : t.agenda = s.agenda :=
  exec_keepsAllBut h .agenda (not_mayWrite_agenda i s)

theorem exec_slot (hi : ∀ x, i ≠ .ldVxK x) (h : exec i s = .next t) : t.slot = s.slot :=
  exec_keepsAllBut h .slot fun hw => (mayWrite_slot_iff.1 hw).elim hi

theorem mayWrite_draws_iff : MayWrite s i .draws ↔ ∃ x kk, i = .rnd x kk := by
  cases i <;> simp [MayWrite, Loc.InStore]

theorem exec_draws (hi : ∀ x kk, i ≠ .rnd x kk) (h : exec i s = .next t) : t.draws = s.draws :=
  exec_keepsAllBut h .draws fun hw => by
    obtain ⟨x, kk, e⟩ := mayWrite_draws_iff.1 hw
    exact hi x kk e

/-- Settles O13: a special register that changes is one the instruction may write, and those are the named ones; Cxkk
takes its one draw, and no other instruction may write the counter. -/
theorem onlyTheNamedInstructionsWriteSpecialRegisters : Obligations.OnlyTheNamedInstructionsWriteSpecialRegisters := by
  refine fun i s t h => ⟨exec_key h, fun hne => mayWrite_dt_iff.1 (mayWrite_of_not_same h (l := .dt) hne),
    fun hne => mayWrite_st_iff.1 (mayWrite_of_not_same h (l := .st) hne),
    fun hne => mayWrite_index_iff.1 (mayWrite_of_not_same h (l := .index) hne), ?draws⟩
  case draws =>
    cases i with
    | rnd x kk => exact eq_of_eq_next rfl h ▸ rfl
    | _ => exact exec_draws (by simp) h

/-! ### Memory, pixels, the stack, the general registers -/

/-- Settles O14: a byte or pixel that changes is one the instruction may write: of the two stores' blocks, respectively
of the two display instructions. -/
theorem onlyStoresChangeMemoryOnlyDrawsChangePixels : Obligations.OnlyStoresChangeMemoryOnlyDrawsChangePixels :=
  fun _ _ _ h =>
    ⟨fun ea hne => mayWrite_byte_iff.1 (mayWrite_of_not_same h (l := .byte ea) hne),
      fun px py hne => mayWrite_pixel_iff.1 (mayWrite_of_not_same h (l := .pixel px py) hne)⟩

/-- What a CALL that does not overflow leaves in the entry at SP. -/
theorem exec_call_entry {nnn : Addr12} {k : Fin 16} (hk : k.val = s.sp.toNat) (h : exec (.call nnn) s = .next t) :
    t.stack[k] = s.pc := by
  rcases execCall_cases nnn s with ⟨hsp, e⟩ | ⟨hsp, e⟩ | ⟨-, e⟩
  · rw [hsp] at hk
    exact absurd hk (Nat.ne_of_lt k.isLt)
  · refine of_eq_next (P := fun t => t.stack[k] = s.pc) e ?_ h
    simp [hk]
  · exact nomatch e.symm.trans h

/-- Settles O15: an entry that changes is one the instruction may write, the entry at SP under a CALL; SP changes as
`exec_sp` says. -/
theorem onlyCallAndReturnMoveTheStack : Obligations.OnlyCallAndReturnMoveTheStack := by
  refine fun i s t h => ⟨fun k hne => ?entry, fun hne => ?sp⟩
  case entry =>
    obtain ⟨⟨nnn, rfl⟩, -, hk⟩ := mayWrite_entry_iff.1 (mayWrite_of_not_same h (l := .entry k) hne)
    exact ⟨⟨nnn, rfl⟩, hk.symm, exec_call_entry hk h⟩
  case sp =>
    rcases exec_sp h with e | ⟨hcall, hlt, e⟩ | ⟨hret, h0, e⟩
    · exact absurd e hne
    · exact .inl ⟨hcall, by bv_omega⟩
    · exact .inr ⟨hret, by bv_omega⟩

/-- Settles O16: a register that changes is one the instruction may write: a destination, or VF under a flag writer. -/
theorem registersChangeOnlyAsDestinationOrFlag : Obligations.RegistersChangeOnlyAsDestinationOrFlag :=
  fun _ _ _ h r hne => mayWrite_reg_iff.1 (mayWrite_of_not_same h (l := .reg r) hne)

/-! ### The flag (R22, R105) -/

theorem flagByte_eq_zero_or_one (c : Bool) : flagByte c = 0 ∨ flagByte c = 1 := by
  cases c
  · exact .inl rfl
  · exact .inr rfl

@[simp] theorem State.getV_setResultFlag_VF (s : State) (r : RegIdx) (res : Byte) (c : Bool) :
    (s.setResultFlag Config.vfWriteOrder r res c).getV VF = flagByte c := by
  rw [Config.vfWriteOrder, State.getV_setResultFlag, if_pos rfl]

theorem State.getV_setResultFlag_result (s : State) {r : RegIdx} (hr : r ≠ VF) (res : Byte) (c : Bool) :
    (s.setResultFlag Config.vfWriteOrder r res c).getV r = res := by
  rw [Config.vfWriteOrder, State.getV_setResultFlag, if_neg hr, if_pos rfl]

/-- Settles O17: each of the six writes VF last, with a flag. -/
theorem flagWritersLeaveZeroOrOne : Obligations.FlagWritersLeaveZeroOrOne := fun i s hw => by
  cases i with
  | addReg | subReg | shr | subn | shl =>
    refine ⟨_, rfl, ?_⟩
    rw [State.advance_getV, State.getV_setResultFlag_VF]
    exact flagByte_eq_zero_or_one _
  | drw =>
    refine ⟨_, rfl, ?_⟩
    rw [State.advance_getV, State.getV_setFlag_same]
    exact flagByte_eq_zero_or_one _
  | _ => exact hw.elim

/-! ### What a STEP leaves alone beside the slot and the record -/

/-- A STEP keeps a location that the instruction at PC, if there is one, does not write. -/
theorem stepEvent_same {l : Loc} (hslot : l ≠ .slot) (hdiags : l ≠ .diags)
    (hw : ∀ i, decodeOpcode s.fetch = some i → ¬ MayWrite s i l) (h : stepEvent s = .next t) : l.Same s t := by
  obtain ⟨u, hu, rfl⟩ := endStep_eq_next.1 h
  rw [Loc.same_clearSlot_of_ne hslot]
  cases hd : decodeOpcode s.fetch with
  | none => exact eq_of_eq_next (execOpcode_of_none hd s) hu ▸ keepsAllBut_diagnose_advance s _ _ l hdiags
  | some i => exact exec_keepsAllBut (execOpcode_of_some hd s ▸ hu) l (hw i hd)

theorem stepEvent_agenda (h : stepEvent s = .next t) : t.agenda = s.agenda :=
  stepEvent_same (l := .agenda) nofun nofun (fun i _ => not_mayWrite_agenda i s) h

theorem stepEvent_dt (hd : ∀ x, decodeOpcode s.fetch ≠ some (.ldDtVx x)) (h : stepEvent s = .next t) : t.dt = s.dt :=
  stepEvent_same (l := .dt) nofun nofun (fun _ hi hw => (mayWrite_dt_iff.1 hw).elim fun x e => hd x (e ▸ hi)) h

theorem stepEvent_st (hd : ∀ x, decodeOpcode s.fetch ≠ some (.ldStVx x)) (h : stepEvent s = .next t) : t.st = s.st :=
  stepEvent_same (l := .st) nofun nofun (fun _ hi hw => (mayWrite_st_iff.1 hw).elim fun x e => hd x (e ▸ hi)) h

/-! ### Diagnostics (60_exceptions.md R231) -/

/-- The diagnostic a decoded instruction records is the table's: the opcode it names is the one fetched. -/
theorem exec_diags (hd : decodeOpcode s.fetch = some i) (h : exec i s = .next t) :
    t.diags = s.expectedDiags ++ s.diags := by
  have hw : encode i = s.fetch := encode_of_decodeOpcode hd
  cases i with
  | call nnn =>
    rcases execCall_cases nnn s with ⟨hsp, e⟩ | ⟨hsp, e⟩ | ⟨-, e⟩
    · rw [eq_of_eq_next e h]
      simp [State.expectedDiags, hd, hsp, hw]
    · have hne : s.sp ≠ 16 := fun h16 => by simp [h16] at hsp
      rw [eq_of_eq_next e h]
      simp only [State.expectedDiags, hd, if_neg hne]
      rfl
    · exact nomatch e.symm.trans h
  | ret =>
    rcases execRet_cases s with ⟨hsp, e⟩ | ⟨hlt, hne, e⟩ | ⟨-, e⟩
    · rw [eq_of_eq_next e h]
      simp [State.expectedDiags, hd, hsp, hw]
    · rw [eq_of_eq_next e h]
      simp only [State.expectedDiags, hd, if_neg hne]
      rfl
    · exact nomatch e.symm.trans h
  | skp x | sknp x =>
    rw [eq_of_eq_next rfl h]
    by_cases hk : 15 < (s.getV x).toNat
    · simp [State.expectedDiags, hd, hk, hw, Config.keyIndexPolicy, State.checkKeyIndex_of_ge s _ hk]
    · simp [State.expectedDiags, hd, hk, State.checkKeyIndex_of_lt s _ _ (Nat.lt_of_not_le hk)]
  | _ =>
    have hk : t.diags = s.diags := exec_keepsAllBut h .diags (by simp [MayWrite, Loc.InStore])
    simp [State.expectedDiags, hd, hk]

theorem stepEvent_diags (h : stepEvent s = .next t) : t.diags = s.expectedDiags ++ s.diags := by
  cases hd : decodeOpcode s.fetch with
  | none =>
    rw [eq_of_eq_next (stepEvent_of_none hd) h]
    simp [State.expectedDiags, hd]
  | some i =>
    obtain ⟨u, hu, rfl⟩ := endStep_eq_next.1 (stepEvent_of_some hd ▸ h)
    exact exec_diags (t := u) hd hu

theorem length_expectedDiags_le (s : State) : s.expectedDiags.length ≤ 1 := by
  unfold State.expectedDiags
  split
  case h_1 | h_6 => simp
  case h_2 | h_3 | h_4 | h_5 => split <;> simp

/-- Settles O18: the record grows by the table's diagnostic, and the port shows what the record grew by. -/
theorem diagnosticsAreExactlyTheTable : Obligations.DiagnosticsAreExactlyTheTable := fun s t hag h => by
  have hdiags := stepEvent_diags (step_of_agenda_nil hag ▸ h)
  exact ⟨hdiags, length_expectedDiags_le s, State.diagPort_of_append hdiags, State.diagPort_disabled s t⟩

end Sys2Proof.Machine
end

section
/-! PROOF. The result of each load, ALU, index, timer, random and skip instruction (41_flow.md to 47_timers.md); their
frames are `exec_keepsAllBut`. -/

namespace Sys2Proof.Machine

/-! ### Jumps and skips (41_flow.md R123 to R128) -/

@[simp] theorem toNat_zextByte (b : Byte) : (zextByte b).toNat = b.toNat := BitVec.toNat_setWidth_of_le (by decide)

theorem toNat_jpV0_target (nnn : Addr12) (b : Byte) :
    (zextAddr nnn + zextByte b).toNat = nnn.toNat + b.toNat := by
  have := nnn.isLt
  have := b.isLt
  rw [BitVec.toNat_add, toNat_zextAddr, toNat_zextByte]
  omega

/-- Settles O32: the sum of a 12-bit and an 8-bit number does not wrap in 16 bits. -/
theorem jumpIndexedGoesToSum : Obligations.JumpIndexedGoesToSum := fun nnn s => by
  have hsum := toNat_jpV0_target nnn (s.getV 0)
  refine ⟨_, rfl, hsum, ?bound, exec_keepsAllBut (i := .jpV0 nnn) rfl⟩
  case bound =>
    have := nnn.isLt
    have := (s.getV 0).isLt
    exact hsum.trans_le (by omega)

/-- Settles O36: each skip is a skip on its own comparison, as a Boolean. -/
theorem skipsCompareRegisters : Obligations.SkipsCompareRegisters := by
  refine fun x y kk s => ⟨⟨_, rfl, ?_, exec_keepsAllBut (i := .seImm x kk) rfl⟩,
    ⟨_, rfl, ?_, exec_keepsAllBut (i := .sneImm x kk) rfl⟩, ⟨_, rfl, ?_, exec_keepsAllBut (i := .seReg x y) rfl⟩,
    ⟨_, rfl, ?_, exec_keepsAllBut (i := .sneReg x y) rfl⟩⟩ <;>
  simp only [State.skipIf_pc, beq_iff_eq, bne_iff_ne]

/-- Settles O37: the jump goes to the PC it stands at. -/
theorem idleLoopIsFixed : Obligations.IdleLoopIsFixed := fun s ⟨nnn, hd, hpc⟩ hag => by
  rw [step_of_agenda_nil hag, stepEvent_of_some hd, exec_jp, ← hpc]
  rfl

/-! ### Moves and logic (42_load_alu.md R142 to R145) -/

/-- Settles O40: the register written reads the copy, respectively the bitwise operation. -/
theorem moveAndLogic : Obligations.MoveAndLogic := by
  refine fun x y s => ⟨⟨_, rfl, s.getV_setV_same x _, rfl, exec_keepsAllBut (i := .ldReg x y) rfl⟩,
    ⟨_, rfl, fun k => ?or, rfl, exec_keepsAllBut (i := .orReg x y) rfl⟩,
    ⟨_, rfl, fun k => ?and, rfl, exec_keepsAllBut (i := .andReg x y) rfl⟩,
    ⟨_, rfl, fun k => ?xor, rfl, exec_keepsAllBut (i := .xorReg x y) rfl⟩⟩
  case or => rw [State.advance_getV, State.getV_setV_same, BitVec.getLsbD_or]
  case and => rw [State.advance_getV, State.getV_setV_same, BitVec.getLsbD_and]
  case xor => rw [State.advance_getV, State.getV_setV_same, BitVec.getLsbD_xor]

/-! ### Flag writers (42_load_alu.md R146 to R150) -/

theorem flagByte_decide (p : Prop) [Decidable p] : flagByte (decide p) = if p then 1 else 0 := by
  simp only [flagByte, decide_eq_true_eq]

theorem toNat_flagByte (c : Bool) : (flagByte c).toNat = c.toNat := by
  cases c <;> rfl

theorem toNat_sub_byte (a b : Byte) : (a - b).toNat = (a.toNat + 256 - b.toNat) % 256 := by
  have := b.isLt
  rw [BitVec.toNat_sub]
  omega

theorem toNat_lowBitFlag (a : Byte) : (lowBitFlag a).toNat = a.toNat % 2 := by
  rw [lowBitFlag, BitVec.getLsbD, Nat.toNat_testBit, pow_zero, Nat.div_one]

theorem toNat_highBitFlag (a : Byte) : (highBitFlag a).toNat = a.toNat / 128 := by
  have := a.isLt
  rw [highBitFlag, BitVec.getLsbD, Nat.toNat_testBit]
  omega

variable (s : State) {r : RegIdx} (res : Byte) (c : Bool)

/-- VF and the result after a flag-writing instruction. -/
theorem getV_VF_setResultFlag_advance :
    (s.setResultFlag Config.vfWriteOrder r res c).advance.getV VF = flagByte c := by
  rw [State.advance_getV, State.getV_setResultFlag_VF]

theorem getV_result_setResultFlag_advance (hr : r ≠ VF) :
    (s.setResultFlag Config.vfWriteOrder r res c).advance.getV r = res := by
  rw [State.advance_getV, State.getV_setResultFlag_result s hr]

end Sys2Proof.Machine

namespace Sys2Proof.Machine

/-- Settles O41: VF is written last with the carry, and the 8-bit sum wraps modulo 256. -/
theorem addSetsCarry : Obligations.AddSetsCarry := fun x y s => by
  refine ⟨_, rfl, ?flag, fun hx => ?result, rfl, exec_keepsAllBut (i := .addReg x y) rfl⟩
  case flag => rw [getV_VF_setResultFlag_advance, carryFlag, flagByte_decide]
  case result => rw [getV_result_setResultFlag_advance s _ _ hx, BitVec.toNat_add]

/-- Settles O42: VF is written last with the strict comparison, and the 8-bit difference wraps modulo 256. -/
theorem subtractSetsGreater : Obligations.SubtractSetsGreater := fun x y s => by
  refine ⟨_, rfl, ?flag, fun hx => ?result, rfl, exec_keepsAllBut (i := .subReg x y) rfl⟩
  case flag => rw [getV_VF_setResultFlag_advance, greaterFlag, flagByte_decide]
  case result => rw [getV_result_setResultFlag_advance s _ _ hx, toNat_sub_byte]

/-- Settles O43: as for 8xy5, with the operands exchanged and Vy as the destination. -/
theorem reverseSubtractWritesVy : Obligations.ReverseSubtractWritesVy := fun x y s => by
  refine ⟨_, rfl, ?flag, fun hy => ?result, rfl, exec_keepsAllBut (i := .subn x y) rfl⟩
  case flag => rw [getV_VF_setResultFlag_advance, greaterFlag, flagByte_decide]
  case result => rw [getV_result_setResultFlag_advance s _ _ hy, toNat_sub_byte]

/-- Settles O44: VF is written last with the bit shifted out, bit 0 or bit 7 as a remainder or a quotient. -/
theorem shiftsMoveOneBit : Obligations.ShiftsMoveOneBit := by
  refine fun x y s => ⟨⟨_, rfl, ?lowBit, fun hx => ?half, rfl, exec_keepsAllBut (i := .shr x y) rfl⟩,
    ⟨_, rfl, ?highBit, fun hx => ?double, rfl, exec_keepsAllBut (i := .shl x y) rfl⟩⟩
  case lowBit => rw [getV_VF_setResultFlag_advance, toNat_flagByte, toNat_lowBitFlag]
  case half =>
    rw [getV_result_setResultFlag_advance s _ _ hx, BitVec.toNat_ushiftRight, Nat.shiftRight_eq_div_pow, pow_one]
  case highBit => rw [getV_VF_setResultFlag_advance, toNat_flagByte, toNat_highBitFlag]
  case double =>
    rw [getV_result_setResultFlag_advance s _ _ hx, BitVec.toNat_shiftLeft, Nat.shiftLeft_eq, pow_one]

/-! ### I, the random byte, timers (43_index_memory.md R161, R162; 44_random.md R180; 47_timers.md) -/

theorem toNat_fontAddr (b : Byte) : (fontAddr b).toNat = b.toNat * 5 := by
  have := b.isLt
  rw [fontAddr, BitVec.toNat_ofNat]
  omega

/-- Settles O46: the 16-bit sum wraps modulo 65536, and five times a byte does not reach it. -/
theorem indexArithmetic : Obligations.IndexArithmetic := by
  refine fun x s => ⟨⟨_, rfl, ?sum, rfl, exec_keepsAllBut (i := .addI x) rfl⟩,
    ⟨_, rfl, toNat_fontAddr (s.getV x), rfl, exec_keepsAllBut (i := .ldF x) rfl⟩⟩
  case sum => rw [State.advance_i, State.setI_i, BitVec.toNat_add, toNat_zextByte]

/-- Settles O51: the register written reads the drawn byte AND kk, and the draw was the next one. -/
theorem randomIsMasked : Obligations.RandomIsMasked := fun x kk s => by
  have hv : (s.consumeRand.setV x (s.nextRand &&& kk)).advance.getV x = Config.randByte s.draws &&& kk :=
    State.getV_setV_same s.consumeRand x _
  refine ⟨_, rfl, hv, fun k hk => ?masked, rfl, rfl, exec_keepsAllBut (i := .rnd x kk) rfl⟩
  case masked => rw [hv, BitVec.getLsbD_and, hk, Bool.and_false]

/-- Settles O57: each is one write of a copy. -/
theorem timerCopies : Obligations.TimerCopies := fun x s =>
  ⟨⟨_, rfl, s.getV_setV_same x _, rfl, exec_keepsAllBut (i := .ldVxDt x) rfl⟩,
    ⟨_, rfl, rfl, rfl, exec_keepsAllBut (i := .ldDtVx x) rfl⟩,
    ⟨_, rfl, rfl, rfl, exec_keepsAllBut (i := .ldStVx x) rfl⟩⟩

/-! ### Key skips (46_keypad.md R200 to R202) -/

theorem exec_skp_of_lt {x : RegIdx} {s : State} (h : (s.getV x).toNat < 16) :
    exec (.skp x) s = .next (s.skipIf s.key[(s.getV x).toNat]) := by
  simp only [exec, execSkp, State.checkKeyIndex_of_lt s _ _ h, State.keyHeld_of_lt s _ h]

theorem exec_sknp_of_lt {x : RegIdx} {s : State} (h : (s.getV x).toNat < 16) :
    exec (.sknp x) s = .next (s.skipIf !s.key[(s.getV x).toNat]) := by
  simp only [exec, execSknp, State.checkKeyIndex_of_lt s _ _ h, State.keyHeld_of_lt s _ h]

theorem exec_skp_of_ge {x : RegIdx} {s : State} (h : 16 ≤ (s.getV x).toNat) :
    exec (.skp x) s = .next ((s.diagnose .keyIndexRange (encode (.skp x))).skipIf false) := by
  simp only [exec, execSkp, Config.keyIndexPolicy, State.checkKeyIndex_of_ge s _ h, State.keyHeld_of_ge s h]

theorem exec_sknp_of_ge {x : RegIdx} {s : State} (h : 16 ≤ (s.getV x).toNat) :
    exec (.sknp x) s = .next ((s.diagnose .keyIndexRange (encode (.sknp x))).skipIf true) := by
  simp only [exec, execSknp, Config.keyIndexPolicy, State.checkKeyIndex_of_ge s _ h, State.keyHeld_of_ge s h,
    Bool.not_false]

theorem keepsAllBut_diagnose_skipIf (s : State) (d : DiagKind) (w : Word16) (c : Bool) :
    KeepsAllBut (fun l => l = .diags) s ((s.diagnose d w).skipIf c) := by
  rw [keepsAllBut_skipIf, keepsAllBut_diagnose (changed := fun l => l = .diags) s s rfl]
  exact keepsAllBut_refl _ s

/-- Settles O55: a key number in range is looked up and nothing is recorded; above 15 it counts as not held and is
recorded. -/
theorem keySkips : Obligations.KeySkips := by
  refine fun x s => ⟨fun h => ⟨⟨_, exec_skp_of_lt h, rfl, ?_⟩, ⟨_, exec_sknp_of_lt h, ?notHeld, ?_⟩⟩, fun h =>
    ⟨⟨_, exec_skp_of_ge h, rfl, rfl, keepsAllBut_diagnose_skipIf s _ _ _⟩,
      ⟨_, exec_sknp_of_ge h, rfl, rfl, keepsAllBut_diagnose_skipIf s _ _ _⟩⟩⟩
  case notHeld => simp only [State.skipIf_pc, Bool.not_eq_true']
  all_goals
    rw [keepsAllBut_skipIf]
    exact keepsAllBut_refl _ s

end Sys2Proof.Machine
end

section
/-! PROOF. The instructions that store and load memory (43_index_memory.md R164 to R167), and memory itself
(20_memory.md R51 to R63). -/

namespace Sys2Proof.Machine

/-- Settles O29: the cells of two addresses are their residues modulo 4096. -/
theorem memoryReadAfterWrite : Obligations.MemoryReadAfterWrite := fun s a c b => s.memRead_memWrite a c b

/-! ### LD B, Vx -/

variable {s t : State} {x r : RegIdx}

theorem exec_ldB_memRead (h : exec (.ldB x) s = .next t) {k : Nat} (hk : k < 3) :
    t.memRead (s.i + BitVec.ofNat 16 k) = (bcdDigits (s.getV x))[k] := by
  rw [eq_of_eq_next rfl h, State.advance_memRead]
  exact State.memRead_memWriteBytes_at s s.i (by simp [bcdDigits]) hk

theorem exec_ldB_pc (h : exec (.ldB x) s = .next t) : t.pc = s.pc + 2 := by
  rw [eq_of_eq_next rfl h, State.advance_pc, State.memWriteBytes_pc]

/-- Settles O47: the k-th stored byte is read at the k-th address, and each digit fits a byte. -/
theorem bcdStoresDigits : Obligations.BcdStoresDigits := fun x s => by
  have h : exec (.ldB x) s = .next (s.memWriteBytes s.i (bcdDigits (s.getV x))).advance := rfl
  have hb := (s.getV x).isLt
  have h0 := exec_ldB_memRead h (k := 0) (by decide)
  have h1 := exec_ldB_memRead h (k := 1) (by decide)
  have h2 := exec_ldB_memRead h (k := 2) (by decide)
  rw [BitVec.add_zero] at h0
  refine ⟨_, h, ?hundreds, ?tens, ?ones, exec_ldB_pc h, exec_keepsAllBut h⟩
  case hundreds => exact (congrArg BitVec.toNat h0).trans (Nat.mod_eq_of_lt (by omega))
  case tens => exact (congrArg BitVec.toNat h1).trans (Nat.mod_eq_of_lt (by omega))
  case ones => exact (congrArg BitVec.toNat h2).trans (Nat.mod_eq_of_lt (by omega))

/-! ### LD [I], Vx and LD Vx, [I] -/

theorem exec_storeRegs_memRead (h : exec (.storeRegs x) s = .next t) (hr : r.toNat ≤ x.toNat) :
    t.memRead (s.i + BitVec.ofNat 16 r.toNat) = s.getV r := by
  have := x.isLt
  have hlen : r.toNat < (s.regsUpTo x).length := by simp only [State.length_regsUpTo]; omega
  rw [eq_of_eq_next rfl h, State.advance_memRead,
    State.memRead_memWriteBytes_at s s.i (by simp only [State.length_regsUpTo]; omega) hlen,
    State.getElem_regsUpTo]

theorem exec_storeRegs_pc (h : exec (.storeRegs x) s = .next t) : t.pc = s.pc + 2 := by
  rw [eq_of_eq_next rfl h, State.advance_pc, State.memWriteBytes_pc]

theorem exec_loadRegs_getV (h : exec (.loadRegs x) s = .next t) (hr : r.toNat ≤ x.toNat) :
    t.getV r = s.memRead (s.i + BitVec.ofNat 16 r.toNat) := by
  have hlen : r.toNat < (s.memReadBytes s.i (x.toNat + 1)).length := by
    rw [State.length_memReadBytes]; omega
  rw [eq_of_eq_next rfl h, State.advance_getV, State.getV_loadV, dif_pos hlen, State.getElem_memReadBytes]

/-- Settles O48: the bytes stored are those of V0..Vx, one an address. -/
theorem storeRegisters : Obligations.StoreRegisters := fun x s =>
  have h : exec (.storeRegs x) s = .next (s.memWriteBytes s.i (s.regsUpTo x)).advance := rfl
  ⟨_, h, fun _ hr => exec_storeRegs_memRead h hr, exec_storeRegs_pc h, exec_keepsAllBut h⟩

/-- Settles O49: the registers loaded are V0..Vx, one an address. -/
theorem loadRegisters : Obligations.LoadRegisters := fun x s =>
  have h : exec (.loadRegs x) s = .next (s.loadV (s.memReadBytes s.i (x.toNat + 1))).advance := rfl
  ⟨_, h, fun _ hr => exec_loadRegs_getV h hr, rfl, exec_keepsAllBut h⟩

/-- Settles O50: with the same memory and I, the load reads at each address what the store left there. -/
theorem storeThenLoadRestoresRegisters : Obligations.StoreThenLoadRestoresRegisters := fun x s t u h hmem hi => by
  refine ⟨_, rfl, fun r hr => ?_, rfl⟩
  have hread : u.memRead (u.i + BitVec.ofNat 16 r.toNat) = t.memRead (s.i + BitVec.ofNat 16 r.toNat) := by
    rw [State.memRead, State.memRead, hmem, hi]
  exact ((exec_loadRegs_getV rfl hr).trans hread).trans (exec_storeRegs_memRead h hr)

/-- Settles O30: the fetch after Fx55 is from I and I + 1, where V0 and V1 were stored. -/
theorem storedInstructionIsFetchedNext : Obligations.StoredInstructionIsFetchedNext := fun s x hx hi => by
  have h : exec (.storeRegs x) s = .next (s.memWriteBytes s.i (s.regsUpTo x)).advance := rfl
  have hhi := exec_storeRegs_memRead (r := 0) h (Nat.zero_le _)
  have hlo := exec_storeRegs_memRead (r := 1) h hx
  have hpc := (exec_storeRegs_pc h).trans hi.symm
  refine ⟨_, h, ?_⟩
  rw [State.fetch, hpc, ← hhi, ← hlo]
  simp

end Sys2Proof.Machine
end

section
/-! PROOF. CALL, RET and their round trip (41_flow.md R121, R122, R129). -/

namespace Sys2Proof.Machine

variable {s : State}

/-! ### CALL and RET by the range of SP -/

theorem exec_call_of_lt (nnn : Addr12) (h : s.sp.toNat < 16) :
    exec (.call nnn) s = .next ((s.push s.pc h).jumpTo (zextAddr nnn)) := by
  rcases execCall_cases nnn s with ⟨hsp, -⟩ | ⟨hsp, e⟩ | ⟨hsp, -⟩
  · simp [hsp] at h
  · exact e
  · omega

theorem exec_call_of_eq (nnn : Addr12) (h : s.sp.toNat = 16) :
    exec (.call nnn) s = .next (s.diagnose .stackOverflow (encode (.call nnn))).advance := by
  rcases execCall_cases nnn s with ⟨-, e⟩ | ⟨hsp, -⟩ | ⟨hsp, -⟩
  · exact e
  · omega
  · omega

theorem exec_call_of_gt (nnn : Addr12) (h : 16 < s.sp.toNat) : exec (.call nnn) s = .fault .stackIndexOutOfRange := by
  rcases execCall_cases nnn s with ⟨hsp, -⟩ | ⟨hsp, -⟩ | ⟨-, e⟩
  · simp [hsp] at h
  · omega
  · exact e

theorem exec_ret_of_pos (h0 : 0 < s.sp.toNat) (h : s.sp.toNat ≤ 16) :
    exec .ret s = .next (s.drop.jumpTo (s.stack[s.sp.toNat - 1] + 2)) := by
  rcases execRet_cases s with ⟨hsp, -⟩ | ⟨hlt, hne, e⟩ | ⟨hsp, -⟩
  · simp [hsp] at h0
  · simp only [toNat_pred hne] at e
    exact e
  · omega

/-- A RET with an entry on the stack goes past the address in the topmost one. -/
theorem exec_ret_of_top {k : Fin 16} (hk : s.sp.toNat = k.val + 1) :
    exec .ret s = .next (s.drop.jumpTo (s.stack[k] + 2)) := by
  have := k.isLt
  rw [exec_ret_of_pos (by omega) (by omega)]
  simp [hk]

theorem exec_ret_of_zero (h : s.sp.toNat = 0) :
    exec .ret s = .next (s.diagnose .stackUnderflow (encode .ret)).advance := by
  rcases execRet_cases s with ⟨-, e⟩ | ⟨hlt, hne, -⟩ | ⟨hsp, -⟩
  · exact e
  · exact absurd (BitVec.eq_of_toNat_eq h) hne
  · omega

theorem exec_ret_of_gt (h : 16 < s.sp.toNat) : exec .ret s = .fault .stackIndexOutOfRange := by
  rcases execRet_cases s with ⟨hsp, -⟩ | ⟨hlt, hne, -⟩ | ⟨-, e⟩
  · simp [hsp] at h
  · rw [toNat_pred hne] at hlt
    omega
  · exact e

theorem toNat_succ_of_lt {b : Byte} (h : b.toNat < 16) : (b + 1).toNat = b.toNat + 1 := by
  bv_omega

theorem keepsAllBut_push_jumpTo (h : s.sp.toNat < 16) (a t : Word16) :
    KeepsAllBut (fun l => l = .sp ∨ l = .entry ⟨s.sp.toNat, h⟩) s ((s.push a h).jumpTo t) := by
  rw [keepsAllBut_jumpTo, keepsAllBut_push s s (.inl rfl) h (.inr rfl)]
  exact keepsAllBut_refl _ s

theorem keepsAllBut_drop_jumpTo (s : State) (t : Word16) : KeepsAllBut (fun l => l = .sp) s (s.drop.jumpTo t) := by
  rw [keepsAllBut_jumpTo, keepsAllBut_drop (changed := fun l => l = .sp) s s rfl]
  exact keepsAllBut_refl _ s

/-- Settles O33: below 16 entries the push and the jump, at 16 the diagnostic and the advance, above 16 the fault. -/
theorem callPushesItsAddress : Obligations.CallPushesItsAddress := by
  refine fun nnn s => ⟨fun h => ?push, fun h => ?overflow, exec_call_of_gt nnn⟩
  case push =>
    exact ⟨_, exec_call_of_lt nnn h, Vector.getElem_set_self h, toNat_succ_of_lt h, toNat_zextAddr nnn,
      keepsAllBut_push_jumpTo h _ _⟩
  case overflow => exact ⟨_, exec_call_of_eq nnn h, rfl, rfl, keepsAllBut_diagnose_advance s _ _⟩

/-- Settles O34: with 1 to 16 entries the pop, with none the diagnostic and the advance, above 16 the fault. -/
theorem returnPopsCallAddress : Obligations.ReturnPopsCallAddress := by
  refine fun s => ⟨fun h => ?pop, fun h => ?underflow, exec_ret_of_gt⟩
  case pop =>
    have hne : s.sp ≠ 0 := fun e => by simp [e] at h
    exact ⟨_, exec_ret_of_pos h.1 h.2, toNat_pred hne, rfl, keepsAllBut_drop_jumpTo s _⟩
  case underflow => exact ⟨_, exec_ret_of_zero h, rfl, rfl, keepsAllBut_diagnose_advance s _ _⟩

/-! ### The round trip (R129) -/

theorem execAll_cons_of_next {i : Instr} {t : State} (h : exec i s = .next t) (is : List Instr) :
    execAll (i :: is) s = execAll is t := by
  simp only [execAll, h]

theorem execAll_append_of_next {is : List Instr} {t : State} (h : execAll is s = .next t) (js : List Instr) :
    execAll (is ++ js) s = execAll js t := by
  induction is generalizing s with
  | nil =>
    cases h
    rfl
  | cons i is ih =>
    cases hi : exec i s with
    | next u =>
      rw [execAll_cons_of_next hi] at h
      rw [List.cons_append, execAll_cons_of_next hi, ih h]
    | fault f => simp only [execAll, hi, reduceCtorEq] at h
    | refused r => simp only [execAll, hi, reduceCtorEq] at h

/-- The calls to the targets, one inside the other, and their returns. -/
def nestedCalls (targets : List Addr12) : List Instr :=
  targets.map .call ++ List.replicate targets.length .ret

theorem nestedCalls_cons (nnn : Addr12) (targets : List Addr12) :
    nestedCalls (nnn :: targets) = .call nnn :: (nestedCalls targets ++ [.ret]) := by
  simp [nestedCalls, List.replicate_succ']

/-- The stack entries from a height on. -/
def Loc.EntryFrom (sp : Nat) (l : Loc) : Prop := ∃ k, l = .entry k ∧ sp ≤ k.val

/-- A CALL, then what keeps all below its entry, then a RET: SP and the entries from the CALL's on may change. -/
theorem keepsAllBut_push_drop {u : State} {a t t' : Word16} (h : s.sp.toNat < 16)
    (hu : KeepsAllBut (Loc.EntryFrom (s.sp.toNat + 1)) ((s.push a h).jumpTo t) u) :
    KeepsAllBut (fun l => l = .sp ∨ l.EntryFrom s.sp.toNat) s (u.drop.jumpTo t') := by
  refine ((keepsAllBut_push_jumpTo h a t).mono ?push).trans
    ((hu.mono ?inner).trans ((keepsAllBut_drop_jumpTo u t').mono fun _ => .inl))
  case push =>
    rintro l (rfl | rfl)
    · exact .inl rfl
    · exact .inr ⟨_, rfl, Nat.le_refl _⟩
  case inner =>
    rintro l ⟨k, rfl, hk⟩
    exact .inr ⟨k, rfl, Nat.le_of_succ_le hk⟩

/-- A round trip keeps SP and all below it, whether or not there is a call in it; with one it ends after the first. -/
theorem execAll_nestedCalls (targets : List Addr12) (s : State) (h : s.sp.toNat + targets.length ≤ 16) :
    ∃ t, execAll (nestedCalls targets) s = .next t ∧ (targets ≠ [] → t.pc = s.pc + 2) ∧ t.sp = s.sp ∧
      KeepsAllBut (Loc.EntryFrom s.sp.toNat) s t := by
  induction targets generalizing s with
  | nil => exact ⟨s, rfl, fun hne => absurd rfl hne, rfl, keepsAllBut_refl _ s⟩
  | cons nnn targets ih =>
    rw [List.length_cons] at h
    have hlt : s.sp.toNat < 16 := by omega
    have hcall := exec_call_of_lt nnn hlt
    have hsp : ((s.push s.pc hlt).jumpTo (zextAddr nnn)).sp.toNat = s.sp.toNat + 1 := toNat_succ_of_lt hlt
    obtain ⟨u, hinner, -, husp, hu⟩ := ih ((s.push s.pc hlt).jumpTo (zextAddr nnn)) (by omega)
    rw [hsp] at hu
    have hentry : u.stack[(⟨s.sp.toNat, hlt⟩ : Fin 16)] = s.pc :=
      Eq.trans (hu (.entry ⟨_, hlt⟩) (by simp [Loc.EntryFrom])) (exec_call_entry (k := ⟨_, hlt⟩) rfl hcall)
    have hret := exec_ret_of_top (k := ⟨_, hlt⟩) ((congrArg BitVec.toNat husp).trans hsp)
    have hback : u.drop.sp = s.sp := by
      rw [State.drop_sp, husp]
      exact BitVec.add_sub_cancel s.sp 1
    rw [hentry] at hret
    refine ⟨u.drop.jumpTo (s.pc + 2), ?run, fun _ => rfl, hback, fun l hl => ?_⟩
    case run =>
      rw [nestedCalls_cons, execAll_cons_of_next hcall, execAll_append_of_next hinner, execAll_cons_of_next hret]
      rfl
    by_cases hlsp : l = .sp
    · exact hlsp ▸ hback
    · exact keepsAllBut_push_drop hlt hu l fun hc => hc.elim hlsp hl

/-- Settles O35: the round trip of a nonempty list of calls. -/
theorem nestedCallsReturn : Obligations.NestedCallsReturn := fun targets s hne h => by
  obtain ⟨t, hrun, hpc, hsp, hframe⟩ := execAll_nestedCalls targets s h
  exact ⟨t, hrun, hpc hne, hsp, hframe⟩

end Sys2Proof.Machine
end

section
/-! PROOF. The sprite draw Dxyn (45_display.md R186 to R190): from the law of the draw unit to the pixels and the
flag. -/

namespace Sys2Proof.Machine

variable {s t : State} {x y : RegIdx} {n : Nibble}

/-! ### The pixels of a sprite -/

theorem eq_colOf_iff (px : Fin 64) (c : Nat) : px = colOf c ↔ px.val = c % 64 := Fin.ext_iff

theorem eq_rowOf_iff (py : Fin 32) (r : Nat) : py = rowOf r ↔ py.val = r % 32 := Fin.ext_iff

/-- The draw unit's run of Dxyn, from the state's framebuffer. -/
def State.drawn (s : State) (x y : RegIdx) (n : Nibble) : DrawAcc :=
  drawRows ⟨s.fb, false⟩ (s.getV x).toNat (s.getV y).toNat (s.memReadBytes s.i n.toNat)

theorem exec_drw (x y : RegIdx) (n : Nibble) (s : State) :
    exec (.drw x y n) s = .next ((s.setFb (s.drawn x y n).fb).setFlag (s.drawn x y n).hit).advance := rfl

/-- The draw unit draws the sprite of the instruction. -/
theorem State.drawn_draws (s : State) (x y : RegIdx) (n : Nibble) :
    Draws (SpriteCovers s x y n) ⟨s.fb, false⟩ (s.drawn x y n) := by
  have hlen : (s.memReadBytes s.i n.toNat).length ≤ 32 := by
    have := n.isLt
    rw [State.length_memReadBytes]
    omega
  refine (drawRows_draws _ _ _ hlen).congr fun px py => ?_
  simp only [State.length_memReadBytes, State.getElem_memReadBytes, eq_colOf_iff, eq_rowOf_iff, spriteBit,
    Config.spriteMsbLeft, if_true, exists_prop, SpriteCovers]

/-! ### What one draw leaves -/

theorem flagByte_eq_one_iff (c : Bool) : flagByte c = 1 ↔ c = true := by
  cases c <;> decide

theorem flagByte_eq_zero_iff (c : Bool) : flagByte c = 0 ↔ ¬ c = true := by
  cases c <;> decide

theorem exec_drw_pixel (h : exec (.drw x y n) s = .next t) (px : Fin 64) (py : Fin 32) :
    t.pixel px py = Framebuffer.get (s.drawn x y n).fb px py := by
  rw [eq_of_eq_next (exec_drw x y n s) h]
  rfl

theorem exec_drw_pixel_of_covers (h : exec (.drw x y n) s = .next t) {px : Fin 64} {py : Fin 32}
    (hc : SpriteCovers s x y n px py) : t.pixel px py = !s.pixel px py :=
  (exec_drw_pixel h px py).trans ((s.drawn_draws x y n).flips px py hc)

theorem exec_drw_pixel_of_not_covers (h : exec (.drw x y n) s = .next t) {px : Fin 64} {py : Fin 32}
    (hc : ¬ SpriteCovers s x y n px py) : t.pixel px py = s.pixel px py :=
  (exec_drw_pixel h px py).trans ((s.drawn_draws x y n).keeps px py hc)

theorem exec_drw_flag (h : exec (.drw x y n) s = .next t) : t.getV VF = flagByte (s.drawn x y n).hit := by
  rw [eq_of_eq_next (exec_drw x y n s) h, State.advance_getV, State.getV_setFlag_same]

/-- The draw unit reports a collision iff a covered pixel was lit. -/
theorem State.drawn_hit_iff (s : State) (x y : RegIdx) (n : Nibble) :
    (s.drawn x y n).hit = true ↔ ∃ px py, SpriteCovers s x y n px py ∧ s.pixel px py = true :=
  (s.drawn_draws x y n).hits.trans (or_iff_right Bool.false_ne_true)

theorem exec_drw_flag_eq_one_iff (h : exec (.drw x y n) s = .next t) :
    t.getV VF = 1 ↔ ∃ px py, SpriteCovers s x y n px py ∧ s.pixel px py = true := by
  rw [exec_drw_flag h, flagByte_eq_one_iff, State.drawn_hit_iff]

theorem exec_drw_flag_eq_zero_iff (h : exec (.drw x y n) s = .next t) :
    t.getV VF = 0 ↔ ¬ ∃ px py, SpriteCovers s x y n px py ∧ s.pixel px py = true := by
  rw [exec_drw_flag h, flagByte_eq_zero_iff, State.drawn_hit_iff]

/-- Settles O53: pixel by pixel the law of the draw unit, for the pixels the sprite covers. -/
theorem drawFlipsSpritePixels : Obligations.DrawFlipsSpritePixels := fun x y n s =>
  have h := exec_drw x y n s
  ⟨_, h, fun _ _ => exec_drw_pixel_of_covers h, fun _ _ => exec_drw_pixel_of_not_covers h, exec_drw_flag_eq_one_iff h,
    exec_drw_flag_eq_zero_iff h, rfl, exec_keepsAllBut h⟩

/-! ### Drawing twice -/

/-- A draw whose coordinates are not in VF leaves the sprite where it is. -/
theorem spriteCovers_exec_drw (hx : x ≠ VF) (hy : y ≠ VF) (h : exec (.drw x y n) s = .next t) :
    SpriteCovers t x y n = SpriteCovers s x y n := by
  have hframe := exec_keepsAllBut h
  have hvx : t.getV x = s.getV x := hframe (.reg x) (by simp [MayWrite, hx])
  have hvy : t.getV y = s.getV y := hframe (.reg y) (by simp [MayWrite, hy])
  have hi : t.i = s.i := hframe .index (by simp [MayWrite])
  have hmem : t.memRead = s.memRead := funext fun ea => hframe (.byte ea) (by simp [MayWrite])
  unfold SpriteCovers
  rw [hvx, hvy, hi, hmem]

/-- Settles O54: both draws cover the same pixels, which the first one flips, so the second flips them back and meets a
lit pixel where there was none. -/
theorem drawTwiceRestores : Obligations.DrawTwiceRestores := fun x y n s hx hy => by
  obtain ⟨t, ht⟩ : ∃ t, exec (.drw x y n) s = .next t := ⟨_, exec_drw x y n s⟩
  obtain ⟨u, hu⟩ : ∃ u, exec (.drw x y n) t = .next u := ⟨_, exec_drw x y n t⟩
  have hcovers := spriteCovers_exec_drw hx hy ht
  refine ⟨t, u, ht, hu, fun px py => ?pixels, ?flag⟩
  case pixels =>
    by_cases hc : SpriteCovers s x y n px py
    · rw [exec_drw_pixel_of_covers hu (hcovers ▸ hc), exec_drw_pixel_of_covers ht hc, Bool.not_not]
    · rw [exec_drw_pixel_of_not_covers hu (hcovers ▸ hc), exec_drw_pixel_of_not_covers ht hc]
  case flag =>
    rw [exec_drw_flag_eq_one_iff hu, hcovers]
    refine exists₂_congr fun px py => and_congr_right fun hc => ?_
    rw [exec_drw_pixel_of_covers ht hc, Bool.not_eq_true']

end Sys2Proof.Machine
end

section
/-! PROOF. Host events and finite runs (10_state.md R35 to R43; 70_reset_and_hazards.md R270 to R272): no instruction
sees the agenda, none but Fx0A sees the slot, and so queueing events is applying them. -/

namespace Sys2Proof.Machine

variable {s t : State} {i : Instr}

/-! ### What instructions do not see: the agenda, and but for Fx0A the slot -/

/-- The state with another slot and another agenda. -/
def State.withHost (s : State) (slot : Option Nibble) (agenda : List Event) : State :=
  { s with slot := slot, agenda := agenda }

/-- The outcome with another slot and another agenda in its next state. -/
def withHostOf (slot : Option Nibble) (agenda : List Event) : Result → Result
  | .next s => .next (s.withHost slot agenda)
  | .fault f => .fault f
  | .refused r => .refused r

theorem State.memWriteBytes_withHost (s : State) (slot : Option Nibble) (agenda : List Event) (a : Word16)
    (bs : List Byte) : (s.withHost slot agenda).memWriteBytes a bs = (s.memWriteBytes a bs).withHost slot agenda := by
  induction bs generalizing s a with
  | nil => rfl
  | cons b bs ih => exact ih (s.memWrite a b) (a + 1)

theorem State.checkKeyIndex_withHost (s : State) (slot : Option Nibble) (agenda : List Event) (p : KeyIndexPolicy)
    (b : Byte) (w : Word16) :
    (s.withHost slot agenda).checkKeyIndex p b w = (s.checkKeyIndex p b w).withHost slot agenda := by
  unfold State.checkKeyIndex
  split <;> rfl

/-- An instruction other than Fx0A neither sees nor touches the slot and the agenda. -/
theorem exec_withHost (hi : ∀ x, i ≠ .ldVxK x) (s : State) (slot : Option Nibble) (agenda : List Event) :
    exec i (s.withHost slot agenda) = withHostOf slot agenda (exec i s) := by
  cases i with
  | ldVxK x => exact absurd rfl (hi x)
  | call nnn =>
    rcases Nat.lt_trichotomy s.sp.toNat 16 with h | h | h
    · rw [exec_call_of_lt nnn h, exec_call_of_lt (s := s.withHost slot agenda) nnn h]
      rfl
    · rw [exec_call_of_eq nnn h, exec_call_of_eq (s := s.withHost slot agenda) nnn h]
      rfl
    · rw [exec_call_of_gt nnn h, exec_call_of_gt (s := s.withHost slot agenda) nnn h]
      rfl
  | ret =>
    rcases Nat.eq_zero_or_pos s.sp.toNat with h0 | h0
    · rw [exec_ret_of_zero h0, exec_ret_of_zero (s := s.withHost slot agenda) h0]
      rfl
    · rcases Nat.lt_or_ge 16 s.sp.toNat with h | h
      · rw [exec_ret_of_gt h, exec_ret_of_gt (s := s.withHost slot agenda) h]
        rfl
      · rw [exec_ret_of_pos h0 h, exec_ret_of_pos (s := s.withHost slot agenda) h0 h]
        rfl
  | ldB x => exact congrArg (fun u : State => Host.Outcome.next u.advance) (s.memWriteBytes_withHost slot agenda _ _)
  | storeRegs x =>
    exact congrArg (fun u : State => Host.Outcome.next u.advance) (s.memWriteBytes_withHost slot agenda _ _)
  | skp x =>
    exact congrArg (fun u : State => Host.Outcome.next (u.skipIf _)) (s.checkKeyIndex_withHost slot agenda _ _ _)
  | sknp x =>
    exact congrArg (fun u : State => Host.Outcome.next (u.skipIf _)) (s.checkKeyIndex_withHost slot agenda _ _ _)
  | _ => rfl

theorem exec_setAgenda (i : Instr) (s : State) (agenda : List Event) :
    exec i (s.setAgenda agenda) = withAgenda agenda (exec i s) := by
  by_cases hi : ∃ x, i = .ldVxK x
  · obtain ⟨x, rfl⟩ := hi
    cases hslot : s.slot with
    | none =>
      rw [exec_ldVxK_of_slot_none hslot, exec_ldVxK_of_slot_none (s := s.setAgenda agenda) hslot]
      rfl
    | some k =>
      rw [exec_ldVxK_of_slot_some hslot, exec_ldVxK_of_slot_some (s := s.setAgenda agenda) hslot]
      rfl
  · have hi' : ∀ x, i ≠ .ldVxK x := not_exists.1 hi
    refine (exec_withHost hi' s s.slot agenda).trans ?_
    cases h : exec i s with
    | next t =>
      have hslot := exec_slot hi' h
      simp only [withHostOf, withAgenda, State.withHost, State.setAgenda, ← hslot]
    | fault f => rfl
    | refused r => rfl

theorem endStep_withAgenda (agenda : List Event) (r : Result) :
    endStep (withAgenda agenda r) = withAgenda agenda (endStep r) := by
  cases r <;> rfl

theorem stepEvent_setAgenda (s : State) (agenda : List Event) :
    stepEvent (s.setAgenda agenda) = withAgenda agenda (stepEvent s) := by
  cases hd : decodeOpcode s.fetch with
  | none =>
    rw [stepEvent_of_none hd, stepEvent_of_none (s := s.setAgenda agenda) hd]
    rfl
  | some i =>
    rw [stepEvent_of_some hd, stepEvent_of_some (s := s.setAgenda agenda) hd, exec_setAgenda, endStep_withAgenda]

theorem applyEvent_setAgenda (e : Event) (s : State) (agenda : List Event) :
    applyEvent e (s.setAgenda agenda) = withAgenda agenda (applyEvent e s) := by
  cases e with
  | step => exact stepEvent_setAgenda s agenda
  | tick | reset => rfl
  | setHeld k b =>
    simp only [applyEvent, applySetHeld]
    split <;> rfl
  | notifyPressed k =>
    simp only [applyEvent, applyNotifyPressed]
    split <;> rfl

/-- A STEP of another instruction than Fx0A loses the press before it. -/
theorem stepEvent_setSlot (hd : ∀ x, decodeOpcode s.fetch ≠ some (.ldVxK x)) (k : Nibble) :
    stepEvent (s.setSlot k) = stepEvent s := by
  cases h : decodeOpcode s.fetch with
  | none =>
    rw [stepEvent_of_none h, stepEvent_of_none (s := s.setSlot k) h]
    rfl
  | some i =>
    have hi : ∀ x, i ≠ .ldVxK x := fun x e => hd x (e ▸ h)
    rw [stepEvent_of_some h, stepEvent_of_some (s := s.setSlot k) h]
    refine (congrArg endStep (exec_withHost hi s (some k) s.agenda)).trans ?_
    cases ht : exec i s with
    | next t =>
      have hag := exec_agenda ht
      simp only [withHostOf, endStep, State.withHost, State.clearSlot, ← hag]
    | fault f => rfl
    | refused r => rfl

/-! ### Queueing events is applying them (R35, R272) -/

variable {e : Event} {es : List Event}

theorem step_setAgenda_cons (e : Event) (rest : List Event) (s : State) :
    step (s.setAgenda (e :: rest)) = withAgenda rest (applyEvent e s) :=
  (step_of_agenda_cons rfl).trans (applyEvent_setAgenda e s rest)

theorem runEvents_cons_of_next (h : applyEvent e s = .next t) : runEvents (e :: es) s = runEvents es t := by
  simp only [runEvents, h]

theorem runEvents_append_of_next {fs : List Event} (h : runEvents es s = .next t) :
    runEvents (es ++ fs) s = runEvents fs t := by
  induction es generalizing s with
  | nil =>
    cases h
    rfl
  | cons e es ih =>
    cases he : applyEvent e s with
    | next u =>
      rw [runEvents_cons_of_next he] at h
      rw [List.cons_append, runEvents_cons_of_next he, ih h]
    | fault f => simp only [runEvents, he, reduceCtorEq] at h
    | refused r => simp only [runEvents, he, reduceCtorEq] at h

theorem run_setAgenda_append (es rest : List Event) (s : State) :
    core.run es.length (s.setAgenda (es ++ rest)) = withAgenda rest (runEvents es s) := by
  induction es generalizing s with
  | nil => rfl
  | cons e es ih =>
    have hstep := step_setAgenda_cons e (es ++ rest) s
    cases he : applyEvent e s with
    | next u =>
      rw [he] at hstep
      rw [List.length_cons, List.cons_append, core_run_of_next _ hstep, ih u, runEvents_cons_of_next he]
    | fault f =>
      rw [he] at hstep
      rw [List.length_cons, List.cons_append, core_run_of_fault _ hstep]
      simp only [runEvents, he]
      rfl
    | refused r =>
      rw [he] at hstep
      rw [List.length_cons, List.cons_append, core_run_of_refused _ hstep]
      simp only [runEvents, he]
      rfl

/-- Settles O24: event by event, since no event sees the agenda. -/
theorem everyEventSequenceIsARun : Obligations.EveryEventSequenceIsARun := run_setAgenda_append

/-- A run of the events a state has queued, when they all complete. -/
theorem run_of_agenda {rest : List Event} (hag : s.agenda = es ++ rest) (h : runEvents es s = .next t) :
    core.run es.length s = .next (t.setAgenda rest) := by
  have hrun := run_setAgenda_append es rest s
  rw [← hag, h] at hrun
  exact hrun

end Sys2Proof.Machine
end

section
/-! PROOF. Ticks, key events, the key wait after presses, and one clock cycle (10_state.md R37 to R43; 46_keypad.md R203
to R205; 47_timers.md R218, R219). -/

namespace Sys2Proof.Machine

variable {s t : State}

/-! ### TICK -/

theorem keepsAllBut_tick {changed : Loc → Prop} (hdt : changed .dt) (hst : changed .st) (s u : State) :
    KeepsAllBut changed s u.tick ↔ KeepsAllBut changed s u :=
  (keepsAllBut_setSt s _ hst _).trans (keepsAllBut_setDt s u hdt _)

theorem countDown_eq (b : Byte) : countDown b = if b ≠ 0 then b - 1 else b := by
  unfold countDown
  split <;> simp [*]

/-- Settles O19: the tick of the state without the queued event. -/
theorem tickCountsDown : Obligations.TickCountsDown := fun s rest hag => by
  refine ⟨(s.setAgenda rest).tick, step_of_agenda_cons hag, countDown_eq s.dt, countDown_eq s.st, rfl, rfl, ?frame⟩
  case frame =>
    rw [keepsAllBut_tick (.inl rfl) (.inr (.inl rfl)), keepsAllBut_setAgenda s s (.inr (.inr rfl))]
    exact keepsAllBut_refl _ s

/-- Ticks alone always complete; each takes one off a timer that is not 0. -/
theorem runEvents_ticks (n : Nat) (s : State) :
    ∃ t, runEvents (List.replicate n .tick) s = .next t ∧ t.dt.toNat = s.dt.toNat - n ∧ t.st.toNat = s.st.toNat - n ∧
      t.pc = s.pc ∧ KeepsAllBut (fun l => l = .dt ∨ l = .st) s t := by
  induction n generalizing s with
  | zero => exact ⟨s, rfl, rfl, rfl, rfl, keepsAllBut_refl _ s⟩
  | succ n ih =>
    obtain ⟨t, hrun, hdt, hst, hpc, hframe⟩ := ih s.tick
    have hhead := (keepsAllBut_tick (changed := fun l => l = .dt ∨ l = .st) (.inl rfl) (.inr rfl) s s).2
      (keepsAllBut_refl _ s)
    refine ⟨t, hrun, ?_, ?_, hpc, hhead.trans hframe⟩
    · rw [hdt, State.tick_dt, toNat_countDown]
      omega
    · rw [hst, State.tick_st, toNat_countDown]
      omega

/-- Settles O20: the queued ticks run as the ticks applied one after another. -/
theorem ticksNeverUnderflow : Obligations.TicksNeverUnderflow := fun n s rest hag => by
  obtain ⟨t, hrun, hdt, hst, hpc, hframe⟩ := runEvents_ticks n s
  have h := run_of_agenda hag hrun
  rw [List.length_replicate] at h
  refine ⟨t.setAgenda rest, h, hdt, hst, hpc, rfl, ?frame⟩
  case frame =>
    rw [keepsAllBut_setAgenda s t (.inr (.inr rfl))]
    exact hframe.mono fun l => by tauto

/-! ### Key events (R38, R39) -/

theorem ofNat_eq_ofNatLT {k : Nat} (h : k < 16) : BitVec.ofNat 4 k = BitVec.ofNatLT k h :=
  BitVec.eq_of_toNat_eq (Nat.mod_eq_of_lt h)

theorem ofNat_toNat_key (k : Nibble) : BitVec.ofNat 4 k.toNat = k := BitVec.ofNat_toNat 4 k ▸ BitVec.setWidth_eq k

/-- Settles O21: within range the write of one key or of the slot, of the state without the queued event. -/
theorem inputEventsWriteOneKeyOrTheSlot : Obligations.InputEventsWriteOneKeyOrTheSlot := by
  refine fun s k b rest => ⟨fun hag => ?setHeld, fun hag => ?press⟩
  case setHeld =>
    have hstep := step_of_agenda_cons hag
    refine ⟨fun h => ?_, fun h => hstep.trans (applySetHeld_of_ge b _ h)⟩
    refine ⟨_, hstep.trans (applySetHeld_of_lt b _ h), ?_, rfl, rfl, ?_⟩
    · rw [ofNat_eq_ofNatLT h, State.getKey_setKey, if_pos rfl]
    · rw [ofNat_eq_ofNatLT h, keepsAllBut_setKey s _ (.inl ⟨h, rfl⟩), keepsAllBut_setAgenda s s (.inr rfl)]
      exact keepsAllBut_refl _ s
  case press =>
    have hstep := step_of_agenda_cons hag
    refine ⟨fun h => ?_, fun h => hstep.trans (applyNotifyPressed_of_ge _ h)⟩
    refine ⟨_, hstep.trans (applyNotifyPressed_of_lt _ h), congrArg some (ofNat_eq_ofNatLT h), rfl, rfl, ?_⟩
    rw [keepsAllBut_setSlot s _ (.inl rfl), keepsAllBut_setAgenda s s (.inr rfl)]
    exact keepsAllBut_refl _ s

theorem applyEvent_press (k : Nibble) (s : State) : applyEvent (.notifyPressed k.toNat) s = .next (s.setSlot k) := by
  have h := applyNotifyPressed_of_lt s k.isLt
  rwa [ofNat_toNat_key] at h

/-! ### Presses and the key wait -/

theorem stepEvent_ldVxK {x : RegIdx} {k : Nibble} (hd : decodeOpcode s.fetch = some (.ldVxK x)) (hk : s.slot = some k) :
    stepEvent s = .next (s.setV x (zextKey k)).clearSlot.advance.clearSlot := by
  rw [stepEvent_of_some hd, exec_ldVxK_of_slot_some hk, endStep]

/-- Settles O22: of the two presses the slot holds the second one when the STEP delivers it. -/
theorem keyWaitReceivesTheLastPress : Obligations.KeyWaitReceivesTheLastPress := fun s x j k rest hd hag => by
  have hrun : runEvents [.notifyPressed j.toNat, .notifyPressed k.toNat, .step] s =
      .next ((((s.setSlot j).setSlot k).setV x (zextKey k)).clearSlot.advance.clearSlot) := by
    rw [runEvents_cons_of_next (applyEvent_press j s), runEvents_cons_of_next (applyEvent_press k _)]
    exact runEvents_cons_of_next (stepEvent_ldVxK (s := (s.setSlot j).setSlot k) hd rfl)
  refine ⟨_, run_of_agenda hag hrun, ?_, rfl, rfl, rfl⟩
  simp

/-- Settles O23: the STEP after the press is the STEP without it. -/
theorem pressBeforeAnotherInstructionIsLost : Obligations.PressBeforeAnotherInstructionIsLost :=
  fun s t k rest hd hag h => by
    have hpress : step s = .next ((s.setAgenda (.step :: rest)).setSlot k) :=
      (step_of_agenda_cons hag).trans (applyEvent_press k _)
    have halone : stepEvent (s.setAgenda rest) = .next t := h
    have hstep : step ((s.setAgenda (.step :: rest)).setSlot k) = .next t :=
      (step_of_agenda_step rfl).trans ((stepEvent_setSlot (s := s.setAgenda rest) hd k).trans halone)
    rw [core_run_of_next 1 hpress, core_run_of_next 0 hstep, core_run_zero]

end Sys2Proof.Machine
end

section
/-! PROOF. One clock cycle, RESET and the load port (10_state.md R40 to R44; 70_reset_and_hazards.md R260 to R265). -/

namespace Sys2Proof.Machine

variable {s t : State}

/-! ### One clock cycle (R43) -/

/-- The state with another key vector. -/
def State.withKeys (s : State) (key : Vector Bool 16) : State := { s with key := key }

theorem applyEvent_setHeld (k : Fin 16) (b : Bool) (s : State) :
    applyEvent (.setHeld k.val b) s = .next (s.withKeys (s.key.set k.val b)) := by
  have hk : (BitVec.ofNat 4 k.val).toNat = k.val := Nat.mod_eq_of_lt k.isLt
  refine (applySetHeld_of_lt b s k.isLt).trans ?_
  simp only [State.setKey, State.withKeys, hk]

/-- Sampling some keys: those take their levels, the others keep theirs, and nothing else happens. -/
theorem runEvents_setHeld (held : Vector Bool 16) (ks : List (Fin 16)) (s : State) :
    ∃ key, runEvents (ks.map fun k => .setHeld k.val held[k]) s = .next (s.withKeys key) ∧
      ∀ k : Fin 16, key[k] = if k ∈ ks then held[k] else s.key[k] := by
  induction ks generalizing s with
  | nil => exact ⟨s.key, rfl, by simp⟩
  | cons j ks ih =>
    obtain ⟨key, hrun, hkey⟩ := ih (s.withKeys (s.key.set j.val held[j]))
    refine ⟨key, (runEvents_cons_of_next (applyEvent_setHeld j held[j] s)).trans hrun, fun k => ?_⟩
    rw [hkey k]
    by_cases hks : k ∈ ks
    · simp [hks]
    · by_cases hj : k = j
      · subst hj
        simp [hks, State.withKeys]
      · have hne : j.val ≠ k.val := fun e => hj (Fin.ext e.symm)
        simp [hks, hj, State.withKeys, Vector.getElem_set_ne _ _ hne]

/-- Sampling the whole vector sets the whole vector. -/
theorem runEvents_heldEvents (held : Vector Bool 16) (s : State) :
    runEvents (heldEvents held) s = .next (s.withKeys held) := by
  obtain ⟨key, hrun, hkey⟩ := runEvents_setHeld held (List.finRange 16) s
  have e : key = held := Vector.ext fun k hk => by simpa using hkey ⟨k, hk⟩
  rw [heldEvents, hrun, e]

theorem State.setAgenda_eq_self {es : List Event} (h : s.agenda = es) : s.setAgenda es = s := by
  subst h
  rfl

/-- A cycle in which everything is presented: the press, the levels, STEP, TICK. -/
theorem CycleInputs.events_busy {c : CycleInputs} {k : Nibble} (hp : c.press = some k) (hs : c.stepEn = true)
    (ht : c.tickEn = true) : c.events = .notifyPressed k.toNat :: (heldEvents c.held ++ [.step, .tick]) := by
  simp [CycleInputs.events, hp, hs, ht]

theorem present_agenda (hag : s.agenda = []) (font : Font) (cs : List CycleInputs) :
    (s.present font cs).agenda = cyclesEvents font none cs := by
  rw [State.present, hag, List.nil_append, State.setAgenda_agenda]

theorem cyclesEvents_singleton_low (font : Font) {c : CycleInputs} (h : c.rst = false) :
    cyclesEvents font none [c] = c.events := by
  rw [cyclesEvents_low font none h]
  simp [cyclesEvents]

/-- Settles O25: the cycle's events run one after another, and press and levels build the state that STEP is from. -/
theorem clockCycleOrder : Obligations.ClockCycleOrder := by
  refine fun s font c k hag => ⟨fun hrst hp hstep htick t ht => ?low, fun hrst => ?high⟩
  case low =>
    have hpresent : s.present font [c] = s.setAgenda (c.events ++ []) := by
      rw [State.present, hag, cyclesEvents_singleton_low font hrst, List.nil_append, List.append_nil]
    have hst : stepEvent ((s.setSlot k).withKeys c.held) = .next t :=
      (step_of_agenda_nil (s := (s.setSlot k).withKeys c.held) hag).symm.trans ht
    have hrun : runEvents c.events s = .next t.tick := by
      rw [CycleInputs.events_busy hp hstep htick, runEvents_cons_of_next (applyEvent_press k s),
        runEvents_append_of_next (runEvents_heldEvents c.held _), runEvents_cons_of_next (e := .step) hst]
      rfl
    have htag : t.tick.agenda = [] := (stepEvent_agenda hst).trans hag
    rw [hpresent, run_setAgenda_append, hrun]
    exact congrArg Host.Outcome.next (State.setAgenda_eq_self htag)
  case high =>
    rw [present_agenda hag]
    simp [cyclesEvents, hrst]

/-! ### RESET (R44) -/

theorem State.reset_getV (r : RegIdx) : State.reset.getV r = 0 := Vector.getElem_replicate r.isLt

theorem State.reset_entry (k : Fin 16) : State.reset.stack[k] = 0 := Vector.getElem_replicate k.isLt

theorem State.reset_pixel (x : Fin 64) (y : Fin 32) : State.reset.pixel x y = false := Framebuffer.get_blank x y

theorem State.reset_getKey (k : Nibble) : State.reset.getKey k = false := Vector.getElem_replicate k.isLt

theorem resetByte_rom (font : Font) (rom : List Byte) (k : Nat) : resetByte font rom [] (0x200 + k) = rom.getD k 0 := by
  simp [resetByte, show ¬ 0x200 + k < 80 by omega]

/-- Settles O26: the reset state fetches at 0x0200 and 0x0201, the first two bytes of the ROM. -/
theorem resetVector : Obligations.ResetVector := fun font b0 b1 rom s rest hag => by
  refine ⟨_, step_of_agenda_cons hag, applyReset_pc font _ _ _, ?_⟩
  have hhi := resetByte_rom font (b0 :: b1 :: rom) 0
  have hlo := resetByte_rom font (b0 :: b1 :: rom) 1
  rw [State.fetch, applyReset_pc, applyReset_memRead, applyReset_memRead]
  exact congrArg₂ opcodeOfBytes hhi hlo

/-- Settles O27: field by field the reset state, and memory as the load port left it. -/
theorem resetLoadsFontAndRom : Obligations.ResetLoadsFontAndRom := fun font rom loads s rest hag => by
  refine ⟨_, step_of_agenda_cons hag, applyReset_pc .., fun r => ?reg, applyReset_i .., applyReset_sp ..,
    fun k => ?entry, applyReset_dt .., applyReset_st .., fun px py => ?pixel, fun k => ?key, applyReset_slot ..,
    applyReset_diags .., rfl, rfl, fun ea => applyReset_memRead ..⟩
  case reg =>
    rw [State.getV, applyReset_v]
    exact State.reset_getV r
  case entry =>
    rw [applyReset_stack]
    exact State.reset_entry k
  case pixel =>
    rw [State.pixel, applyReset_fb]
    exact State.reset_pixel px py
  case key =>
    rw [State.getKey, applyReset_key]
    exact State.reset_getKey k

/-- Storing what unlisted memory reads as lists nothing. -/
theorem State.memWriteBytes_unlisted {s : State} (hmem : s.mem = []) (a : Word16) (bs : List Byte)
    (h : ∀ k (hk : k < bs.length), bs[k] = Memory.unlisted (cellOf (a + BitVec.ofNat 16 k))) :
    s.memWriteBytes a bs = s := by
  induction bs generalizing a with
  | nil => rfl
  | cons b bs ih =>
    have h0 : b = Memory.unlisted (cellOf a) :=
      (h 0 (Nat.zero_lt_succ _)).trans (by rw [BitVec.add_zero])
    have hwrite : s.memWrite a b = s := by
      have hm : Memory.write s.mem (cellOf a) b = s.mem := by
        rw [hmem, Memory.write, if_pos h0, Memory.erase]
      rw [State.memWrite, hm]
    rw [State.memWriteBytes, hwrite]
    refine ih (a + 1) fun k hk => ?_
    have hk' := h (k + 1) (by simpa using hk)
    rwa [List.getElem_cons_succ, show a + BitVec.ofNat 16 (k + 1) = a + 1 + BitVec.ofNat 16 k by
      rw [BitVec.ofNat_add]; ac_rfl] at hk'

theorem State.resetWith_default : State.resetWith Config.font [] = State.reset := by
  rw [State.resetWith, romKept, List.take_nil, State.memWriteBytes]
  refine State.memWriteBytes_unlisted rfl 0 _ fun k hk => ?_
  have hlen : Config.font.toList.length = 80 := Vector.length_toList
  have hcell : cellOf (0 + BitVec.ofNat 16 k) = k := by
    rw [zero_add, cellOf, BitVec.toNat_ofNat]
    omega
  rw [hcell, Memory.unlisted, List.getD_eq_getElem _ _ hk]

/-- Settles O28: field by field; the font is what unlisted memory reads as, so storing it lists nothing. -/
theorem resetState : Obligations.ResetState := by
  refine ⟨rfl, State.reset_getV, rfl, rfl, State.reset_entry, rfl, rfl, State.reset_pixel, State.reset_getKey, rfl,
    fun ea => ?byte, State.resetWith_default⟩
  case byte =>
    have hread : State.reset.memRead ea = Config.font.toList.getD (ea.toNat % 4096) 0 := State.memRead_reset ea
    rw [hread]
    split
    · rfl
    · exact List.getD_eq_default _ _ (by rw [Vector.length_toList]; omega)

/-! ### The load port (R42) -/

/-- Settles O60: the cycles under `rst` are one RESET with their loads. -/
theorem loadPortWritesMemoryUnderReset : Obligations.LoadPortWritesMemoryUnderReset := by
  refine fun s font cs c l hag hne hrst hlow => ⟨?reset, ?next, ?unused⟩
  case reset =>
    have hev : (s.present font cs).agenda = [.reset font [] (cs.filterMap (·.load))] := by
      rw [present_agenda hag, ← List.append_nil cs, cyclesEvents_rst font hne hrst]
      simp [cyclesEvents]
    refine ⟨_, core_run_of_next 0 (step_of_agenda_cons hev), applyReset_pc .., rfl, fun ea => applyReset_memRead ..⟩
  case next =>
    rw [present_agenda hag, cyclesEvents_rst font hne hrst, cyclesEvents_low font _ hlow]
    simp [cyclesEvents]
  case unused => exact (present_agenda hag font _).trans (cyclesEvents_singleton_low font hlow)

end Sys2Proof.Machine
end

section
/-! PROOF. Infinite runs (70_reset_and_hazards.md R272): existence and uniqueness, and what fairness of the ticks
gives. -/

namespace Sys2Proof.Machine

variable {s t : State}

/-! ### The run of an infinite sequence of events -/

/-- Issuing an event and stepping is applying the event. -/
theorem step_offer (e : Event) (s : State) : step (s.offer e) = applyEvent e s :=
  step_of_agenda_cons (s := s.offer e) rfl

/-- The next state of an outcome, or the given one when there is none. -/
def nextOr (s : State) : Result → State
  | .next t => t
  | .fault _ => s
  | .refused _ => s

/-- The states the first n events lead to. -/
def runOf (es : Nat → Event) (s : State) : Nat → State
  | 0 => s
  | n + 1 => nextOr (runOf es s n) (applyEvent (es n) (runOf es s n))

section
variable {es : Nat → Event} (hs : s.Inv) (hes : ∀ n, (es n).wellFormed = true)
include hes

theorem applyEvent_runOf_of_inv {n : Nat} (hn : (runOf es s n).Inv) :
    applyEvent (es n) (runOf es s n) = .next (runOf es s (n + 1)) := by
  obtain ⟨t, ht⟩ := applyEvent_completes hn (hes n)
  rw [runOf, ht, nextOr]

include hs

theorem runOf_inv (n : Nat) : (runOf es s n).Inv := by
  induction n with
  | zero => exact hs
  | succ n ih => exact applyEvent_keeps_inv ih (applyEvent_runOf_of_inv hes ih)

theorem applyEvent_runOf (n : Nat) : applyEvent (es n) (runOf es s n) = .next (runOf es s (n + 1)) :=
  applyEvent_runOf_of_inv hes (runOf_inv hs hes n)

theorem runEvents_range_runOf (n : Nat) : runEvents ((List.range n).map es) s = .next (runOf es s n) := by
  induction n with
  | zero => rfl
  | succ n ih =>
    rw [List.range_succ, List.map_append, runEvents_append_of_next ih]
    exact runEvents_cons_of_next (applyEvent_runOf hs hes n)

end

/-- Two runs of the same events from the same state are the same: a step has one outcome. -/
theorem IsRun.unique {es : Nat → Event} {run other : Nat → State} (h : IsRun es run) (h' : IsRun es other)
    (h0 : other 0 = run 0) : other = run := by
  funext n
  induction n with
  | zero => exact h0
  | succ n ih =>
    have hn := h' n
    rw [ih] at hn
    exact eq_of_eq_next (h n) hn

/-- Settles O58: the run is built event by event, each of which completes by the invariant. -/
theorem everyInfiniteEventSequenceIsARun : Obligations.EveryInfiniteEventSequenceIsARun := fun es s hs hes => by
  have hrun : IsRun es (runOf es s) := fun n => (step_offer _ _).trans (applyEvent_runOf hs hes n)
  exact ⟨runOf es s, rfl, hrun, runOf_inv hs hes, runEvents_range_runOf hs hes, fun _ h0 h => hrun.unique h h0⟩

/-! ### Timers in an infinite run (consequence (d) of R272) -/

/-- Every event but STEP counts a timer down, clears it or leaves it. -/
theorem applyEvent_timers_le {e : Event} (he : e ≠ .step) (h : applyEvent e s = .next t) :
    t.dt.toNat ≤ s.dt.toNat ∧ t.st.toNat ≤ s.st.toNat := by
  cases e with
  | step => exact absurd rfl he
  | tick =>
    rw [eq_of_eq_next rfl h, State.tick_dt, State.tick_st, toNat_countDown, toNat_countDown]
    exact ⟨Nat.sub_le _ _, Nat.sub_le _ _⟩
  | reset font rom loads =>
    rw [eq_of_eq_next rfl h, applyReset_dt, applyReset_st]
    exact ⟨Nat.zero_le _, Nat.zero_le _⟩
  | setHeld k b =>
    rcases lt_or_ge k 16 with hk | hk
    · rw [eq_of_eq_next (applySetHeld_of_lt b s hk) h]
      exact ⟨le_rfl, le_rfl⟩
    · exact nomatch (applySetHeld_of_ge b s hk).symm.trans h
  | notifyPressed k =>
    rcases lt_or_ge k 16 with hk | hk
    · rw [eq_of_eq_next (applyNotifyPressed_of_lt s hk) h]
      exact ⟨le_rfl, le_rfl⟩
    · exact nomatch (applyNotifyPressed_of_ge s hk).symm.trans h

/-- A count that never rises and at some time after every n goes down, if it can, reaches 0 and stays there. -/
theorem eventually_zero {f : Nat → Nat} (hle : ∀ n, f (n + 1) ≤ f n) (hdec : ∀ n, ∃ m ≥ n, f (m + 1) = f m - 1) :
    ∃ k, ∀ n ≥ k, f n = 0 := by
  have hanti : Antitone f := antitone_nat_of_succ_le hle
  have hreach : ∀ v, ∃ k, f k ≤ f 0 - v := by
    intro v
    induction v with
    | zero => exact ⟨0, le_rfl⟩
    | succ v ih =>
      obtain ⟨k, hk⟩ := ih
      obtain ⟨m, hm, hdown⟩ := hdec k
      have := hanti hm
      exact ⟨m + 1, by omega⟩
  obtain ⟨k, hk⟩ := hreach (f 0)
  exact ⟨k, fun n hn => by have := hanti hn; omega⟩

/-- A timer of a run that no event raises reaches 0 if the ticks, each of which counts it down, keep coming. -/
theorem timer_eventually_zero {es : Nat → Event} {run : Nat → State} {timer : State → Byte} (hrun : IsRun es run)
    (hfair : TicksKeepComing es) (htick : ∀ s : State, timer s.tick = countDown (timer s))
    (hle : ∀ n, (timer (run (n + 1))).toNat ≤ (timer (run n)).toNat) : ∃ k, ∀ n ≥ k, timer (run n) = 0 := by
  obtain ⟨k, hk⟩ := eventually_zero (f := fun n => (timer (run n)).toNat) hle fun n => by
    obtain ⟨m, hm, hem⟩ := hfair n
    have happ : applyEvent .tick (run m) = .next (run (m + 1)) := hem ▸ (step_offer (es m) (run m)).symm.trans (hrun m)
    refine ⟨m, hm, ?_⟩
    rw [eq_of_eq_next rfl happ, htick, toNat_countDown]
  exact ⟨k, fun n hn => BitVec.eq_of_toNat_eq (hk n hn)⟩

/-- Settles O59: no event raises a timer but a STEP that writes it. -/
theorem timersReachZeroWhenTicksKeepComing : Obligations.TimersReachZeroWhenTicksKeepComing := by
  intro es run hrun hfair
  have happ : ∀ n, applyEvent (es n) (run n) = .next (run (n + 1)) := fun n => (step_offer _ _).symm.trans (hrun n)
  refine ⟨fun hdt => timer_eventually_zero hrun hfair (fun s => s.tick_dt) fun n => ?dt,
    fun hst => timer_eventually_zero hrun hfair (fun s => s.tick_st) fun n => ?st⟩
  case dt =>
    by_cases he : es n = .step
    · have hstep := happ n
      rw [he] at hstep
      rw [stepEvent_dt (fun x => hdt n x he) hstep]
    · exact (applyEvent_timers_le he (happ n)).1
  case st =>
    by_cases he : es n = .step
    · have hstep := happ n
      rw [he] at hstep
      rw [stepEvent_st (fun x => hst n x he) hstep]
    · exact (applyEvent_timers_le he (happ n)).2

end Sys2Proof.Machine
end
